-- ==== Sys2Proof/Word.lean ====
section
/-! DEFINITION. The word types of the CHIP-8 core (spec/10_state.md, spec/00_scope.md R8). Every quantity is
unsigned; the core has no signed value and no sign extension. -/

namespace Sys2Proof

/-- A byte: a general register, a timer, a byte of memory, an immediate (R20, R29, R31, R34). -/
abbrev Byte := BitVec 8

/-- A 16-bit word: `I`, `pc`, a return address, an instruction word, the key vector (R23, R24, R26, R36, R70). -/
abbrev Word := BitVec 16

/-- A 12-bit address field `addr` of an instruction word (R72). -/
abbrev Addr := BitVec 12

/-- A register number, 0 to 15; every value names a register (R20, R73). -/
abbrev Reg := Fin 16

/-- `VF`, register number 0xF, the flag register (R21). -/
abbrev vf : Reg := 15

end Sys2Proof
end

