-- ==== Sys2Proof/Syntax.lean ====
section
/-! DEFINITION. The 34 instructions of the opcode map (spec/30_encoding.md R76), one constructor per row of
spec/opcode_table.json, in the table's order. Operands are the decoded fields of R72, each at its exact width. -/

namespace Sys2Proof

/-- An instruction with its bound operands (R75, R76). -/
inductive Instr where
  /-- 00E0 `CLS` -/
  | cls
  /-- 00EE `RET` -/
  | ret
  /-- 1nnn `JP addr` -/
  | jp (addr : Addr)
  /-- 2nnn `CALL addr` -/
  | call (addr : Addr)
  /-- 3xkk `SE Vx, byte` -/
  | seImm (x : Reg) (imm : Byte)
  /-- 4xkk `SNE Vx, byte` -/
  | sneImm (x : Reg) (imm : Byte)
  /-- 5xy0 `SE Vx, Vy` -/
  | seReg (x y : Reg)
  /-- 6xkk `LD Vx, byte` -/
  | ldImm (x : Reg) (imm : Byte)
  /-- 7xkk `ADD Vx, byte` -/
  | addImm (x : Reg) (imm : Byte)
  /-- 8xy0 `LD Vx, Vy` -/
  | ldReg (x y : Reg)
  /-- 8xy1 `OR Vx, Vy` -/
  | orReg (x y : Reg)
  /-- 8xy2 `AND Vx, Vy` -/
  | andReg (x y : Reg)
  /-- 8xy3 `XOR Vx, Vy` -/
  | xorReg (x y : Reg)
  /-- 8xy4 `ADD Vx, Vy` -/
  | addReg (x y : Reg)
  /-- 8xy5 `SUB Vx, Vy` -/
  | subReg (x y : Reg)
  /-- 8xy6 `SHR Vx {, Vy}`: `y` is part of the word and takes part in no computation (R78) -/
  | shr (x y : Reg)
  /-- 8xy7 `SUBN Vx, Vy` -/
  | subn (x y : Reg)
  /-- 8xyE `SHL Vx {, Vy}`: `y` is part of the word and takes part in no computation (R78) -/
  | shl (x y : Reg)
  /-- 9xy0 `SNE Vx, Vy` -/
  | sneReg (x y : Reg)
  /-- Annn `LD I, addr` -/
  | ldI (addr : Addr)
  /-- Bnnn `JP V0, addr` -/
  | jpV0 (addr : Addr)
  /-- Cxkk `RND Vx, byte` -/
  | rnd (x : Reg) (imm : Byte)
  /-- Dxyn `DRW Vx, Vy, n`: `n` rows, 0 to 15 -/
  | drw (x y : Reg) (n : Fin 16)
  /-- Ex9E `SKP Vx` -/
  | skp (x : Reg)
  /-- ExA1 `SKNP Vx` -/
  | sknp (x : Reg)
  /-- Fx07 `LD Vx, DT` -/
  | ldVxDT (x : Reg)
  /-- Fx0A `LD Vx, K` -/
  | ldVxK (x : Reg)
  /-- Fx15 `LD DT, Vx` -/
  | ldDTVx (x : Reg)
  /-- Fx18 `LD ST, Vx` -/
  | ldSTVx (x : Reg)
  /-- Fx1E `ADD I, Vx` -/
  | addI (x : Reg)
  /-- Fx29 `LD F, Vx` -/
  | ldF (x : Reg)
  /-- Fx33 `LD B, Vx` -/
  | ldB (x : Reg)
  /-- Fx55 `LD [I], Vx` -/
  | ldMemVx (x : Reg)
  /-- Fx65 `LD Vx, [I]` -/
  | ldVxMem (x : Reg)
  deriving DecidableEq, Repr

end Sys2Proof
end

