-- ==== Sys2Proof/Decode.lean ====
section
/-! DEFINITION. The decoder, a pure function of the instruction word (spec/30_encoding.md R74, R75, R79), and after it
the encoder, written from the formats of R71 and the patterns of R76. -/

namespace Sys2Proof

/-- Why a word is unknown, one name per row of R79's table, and the want of two bytes. -/
inductive DecodeError where
  /-- class 0x0, and the word is neither 00E0 nor 00EE -/
  | unknownClass0
  /-- 5xyN with N not 0 -/
  | unknownClass5
  /-- 8xyN with N in 8, 9, A, B, C, D, F -/
  | unknownClass8
  /-- 9xyN with N not 0 -/
  | unknownClass9
  /-- Exkk with kk neither 9E nor A1 -/
  | unknownClassE
  /-- Fxkk with kk none of the nine selectors of R77 -/
  | unknownClassF
  /-- fewer than the two bytes of an instruction (R70) -/
  | tooShort
  deriving DecidableEq, Repr

/-- The class of a word, `w[15:12]` (R71). -/
def classOf (w : Word) : BitVec 4 := w.extractLsb' 12 4

/-- `x = w[11:8]` (R72). -/
def xOf (w : Word) : Reg := (w.extractLsb' 8 4).toFin

/-- `y = w[7:4]` (R72). -/
def yOf (w : Word) : Reg := (w.extractLsb' 4 4).toFin

/-- `n = w[3:0]` (R72). -/
def nOf (w : Word) : Fin 16 := (w.extractLsb' 0 4).toFin

/-- `imm = w[7:0]` (R72). -/
def immOf (w : Word) : Byte := w.extractLsb' 0 8

/-- `addr = w[11:0]` (R72). -/
def addrOf (w : Word) : Addr := w.extractLsb' 0 12

/-- The secondary match of class 0x8 on the nibble `n` (R74, R77). -/
def decodeClass8 (x y n : Fin 16) : Except DecodeError Instr :=
  match n.val with
  | 0x0 => .ok (.ldReg x y)
  | 0x1 => .ok (.orReg x y)
  | 0x2 => .ok (.andReg x y)
  | 0x3 => .ok (.xorReg x y)
  | 0x4 => .ok (.addReg x y)
  | 0x5 => .ok (.subReg x y)
  | 0x6 => .ok (.shr x y)
  | 0x7 => .ok (.subn x y)
  | 0xE => .ok (.shl x y)
  | _ => .error .unknownClass8

/-- The secondary match of class 0xE on the byte `imm` (R74, R77). -/
def decodeClassE (x : Reg) (imm : Byte) : Except DecodeError Instr :=
  if imm = 0x9E then .ok (.skp x)
  else if imm = 0xA1 then .ok (.sknp x)
  else .error .unknownClassE

/-- The secondary match of class 0xF on the byte `imm` (R74, R77). -/
def decodeClassF (x : Reg) (imm : Byte) : Except DecodeError Instr :=
  if imm = 0x07 then .ok (.ldVxDT x)
  else if imm = 0x0A then .ok (.ldVxK x)
  else if imm = 0x15 then .ok (.ldDTVx x)
  else if imm = 0x18 then .ok (.ldSTVx x)
  else if imm = 0x1E then .ok (.addI x)
  else if imm = 0x29 then .ok (.ldF x)
  else if imm = 0x33 then .ok (.ldB x)
  else if imm = 0x55 then .ok (.ldMemVx x)
  else if imm = 0x65 then .ok (.ldVxMem x)
  else .error .unknownClassF

/-- The decode procedure of R74: classify by the top nibble, then match the secondary field where the class holds more
than one instruction or fixed bits. Total on all 65536 words (R81). -/
def decodeWord (w : Word) : Except DecodeError Instr :=
  match (classOf w).toNat with
  | 0x0 => if w = 0x00E0 then .ok .cls else if w = 0x00EE then .ok .ret else .error .unknownClass0
  | 0x1 => .ok (.jp (addrOf w))
  | 0x2 => .ok (.call (addrOf w))
  | 0x3 => .ok (.seImm (xOf w) (immOf w))
  | 0x4 => .ok (.sneImm (xOf w) (immOf w))
  | 0x5 => if nOf w = 0 then .ok (.seReg (xOf w) (yOf w)) else .error .unknownClass5
  | 0x6 => .ok (.ldImm (xOf w) (immOf w))
  | 0x7 => .ok (.addImm (xOf w) (immOf w))
  | 0x8 => decodeClass8 (xOf w) (yOf w) (nOf w)
  | 0x9 => if nOf w = 0 then .ok (.sneReg (xOf w) (yOf w)) else .error .unknownClass9
  | 0xA => .ok (.ldI (addrOf w))
  | 0xB => .ok (.jpV0 (addrOf w))
  | 0xC => .ok (.rnd (xOf w) (immOf w))
  | 0xD => .ok (.drw (xOf w) (yOf w) (nOf w))
  | 0xE => decodeClassE (xOf w) (immOf w)
  | _ => decodeClassF (xOf w) (immOf w)

/-- The instruction word of two bytes in memory order: the byte at the lower address is the high byte (R54). -/
def wordOfBytes (hi lo : Byte) : Word := hi.setWidth 16 <<< 8 ||| lo.setWidth 16

/-- The byte that stands at the lower address (R54). -/
def hiByte (w : Word) : Byte := w.extractLsb' 8 8

/-- The byte that stands at the higher address (R54). -/
def loByte (w : Word) : Byte := w.extractLsb' 0 8

/-- Decode the first instruction of a list of bytes, total on any bytes; every instruction is two bytes long (R70). -/
def decode : List Byte → Except DecodeError (Instr × List Byte)
  | hi :: lo :: rest =>
    match decodeWord (wordOfBytes hi lo) with
    | .ok i => .ok (i, rest)
    | .error e => .error e
  | _ => .error .tooShort

/-- A register number as the nibble that encodes it (R72). -/
def regNibble (r : Fin 16) : BitVec 4 := BitVec.ofFin (w := 4) r

/-- Format `A` (R71): class in bits 15..12, address in bits 11..0. -/
def encodeA (cls : BitVec 4) (addr : Addr) : Word := cls.setWidth 16 <<< 12 ||| addr.setWidth 16

/-- Format `XI` (R71): class in bits 15..12, register in bits 11..8, immediate byte in bits 7..0. -/
def encodeXI (cls : BitVec 4) (x : Reg) (imm : Byte) : Word :=
  cls.setWidth 16 <<< 12 ||| (regNibble x).setWidth 16 <<< 8 ||| imm.setWidth 16

/-- Formats `XY` and `XYN` (R71): class in bits 15..12, registers in bits 11..8 and 7..4, nibble in bits 3..0. -/
def encodeXYN (cls : BitVec 4) (x y : Reg) (n : BitVec 4) : Word :=
  cls.setWidth 16 <<< 12 ||| (regNibble x).setWidth 16 <<< 8 ||| (regNibble y).setWidth 16 <<< 4 ||| n.setWidth 16

/-- The word of an instruction, from the patterns of R76. Format `X` is format `XI` with the sub-opcode in the low
byte. -/
def encode : Instr → Word
  | .cls => 0x00E0
  | .ret => 0x00EE
  | .jp addr => encodeA 0x1 addr
  | .call addr => encodeA 0x2 addr
  | .seImm x imm => encodeXI 0x3 x imm
  | .sneImm x imm => encodeXI 0x4 x imm
  | .seReg x y => encodeXYN 0x5 x y 0x0
  | .ldImm x imm => encodeXI 0x6 x imm
  | .addImm x imm => encodeXI 0x7 x imm
  | .ldReg x y => encodeXYN 0x8 x y 0x0
  | .orReg x y => encodeXYN 0x8 x y 0x1
  | .andReg x y => encodeXYN 0x8 x y 0x2
  | .xorReg x y => encodeXYN 0x8 x y 0x3
  | .addReg x y => encodeXYN 0x8 x y 0x4
  | .subReg x y => encodeXYN 0x8 x y 0x5
  | .shr x y => encodeXYN 0x8 x y 0x6
  | .subn x y => encodeXYN 0x8 x y 0x7
  | .shl x y => encodeXYN 0x8 x y 0xE
  | .sneReg x y => encodeXYN 0x9 x y 0x0
  | .ldI addr => encodeA 0xA addr
  | .jpV0 addr => encodeA 0xB addr
  | .rnd x imm => encodeXI 0xC x imm
  | .drw x y n => encodeXYN 0xD x y (regNibble n)
  | .skp x => encodeXI 0xE x 0x9E
  | .sknp x => encodeXI 0xE x 0xA1
  | .ldVxDT x => encodeXI 0xF x 0x07
  | .ldVxK x => encodeXI 0xF x 0x0A
  | .ldDTVx x => encodeXI 0xF x 0x15
  | .ldSTVx x => encodeXI 0xF x 0x18
  | .addI x => encodeXI 0xF x 0x1E
  | .ldF x => encodeXI 0xF x 0x29
  | .ldB x => encodeXI 0xF x 0x33
  | .ldMemVx x => encodeXI 0xF x 0x55
  | .ldVxMem x => encodeXI 0xF x 0x65

/-- The two bytes of an instruction in memory order (R54, R70). -/
def encodeBytes (i : Instr) : List Byte := [hiByte (encode i), loByte (encode i)]

/-- The word whose bits are `w`, of which the table gives `nbits`; the bits above them are 0. -/
def tableWord (nbits w : Nat) : Word := BitVec.ofNat 16 (w % 2 ^ nbits)

/-- The instruction the decoder reads from the word `w`, laid out high byte first (R54). -/
def decodeTableWord (nbits w : Nat) : Option Instr :=
  match decode [hiByte (tableWord nbits w), loByte (tableWord nbits w)] with
  | .ok (i, _) => some i
  | .error _ => none

/-- A row of the opcode map (R76): a word `w` is the instruction iff `w &&& mask = pattern`. -/
structure OpcodeRow where
  pattern : Word
  mask : Word
  deriving DecidableEq, Repr

/-- The row of R76 that an instruction belongs to, its `match` and `mask` columns. -/
def rowOf : Instr → OpcodeRow
  | .cls => ⟨0x00E0, 0xFFFF⟩
  | .ret => ⟨0x00EE, 0xFFFF⟩
  | .jp _ => ⟨0x1000, 0xF000⟩
  | .call _ => ⟨0x2000, 0xF000⟩
  | .seImm _ _ => ⟨0x3000, 0xF000⟩
  | .sneImm _ _ => ⟨0x4000, 0xF000⟩
  | .seReg _ _ => ⟨0x5000, 0xF00F⟩
  | .ldImm _ _ => ⟨0x6000, 0xF000⟩
  | .addImm _ _ => ⟨0x7000, 0xF000⟩
  | .ldReg _ _ => ⟨0x8000, 0xF00F⟩
  | .orReg _ _ => ⟨0x8001, 0xF00F⟩
  | .andReg _ _ => ⟨0x8002, 0xF00F⟩
  | .xorReg _ _ => ⟨0x8003, 0xF00F⟩
  | .addReg _ _ => ⟨0x8004, 0xF00F⟩
  | .subReg _ _ => ⟨0x8005, 0xF00F⟩
  | .shr _ _ => ⟨0x8006, 0xF00F⟩
  | .subn _ _ => ⟨0x8007, 0xF00F⟩
  | .shl _ _ => ⟨0x800E, 0xF00F⟩
  | .sneReg _ _ => ⟨0x9000, 0xF00F⟩
  | .ldI _ => ⟨0xA000, 0xF000⟩
  | .jpV0 _ => ⟨0xB000, 0xF000⟩
  | .rnd _ _ => ⟨0xC000, 0xF000⟩
  | .drw _ _ _ => ⟨0xD000, 0xF000⟩
  | .skp _ => ⟨0xE09E, 0xF0FF⟩
  | .sknp _ => ⟨0xE0A1, 0xF0FF⟩
  | .ldVxDT _ => ⟨0xF007, 0xF0FF⟩
  | .ldVxK _ => ⟨0xF00A, 0xF0FF⟩
  | .ldDTVx _ => ⟨0xF015, 0xF0FF⟩
  | .ldSTVx _ => ⟨0xF018, 0xF0FF⟩
  | .addI _ => ⟨0xF01E, 0xF0FF⟩
  | .ldF _ => ⟨0xF029, 0xF0FF⟩
  | .ldB _ => ⟨0xF033, 0xF0FF⟩
  | .ldMemVx _ => ⟨0xF055, 0xF0FF⟩
  | .ldVxMem _ => ⟨0xF065, 0xF0FF⟩

/-- The word is an instance of the row (R76). -/
def OpcodeRow.covers (r : OpcodeRow) (w : Word) : Bool := w &&& r.mask == r.pattern

/-- The rows of the opcode map, in R76's order. -/
def opcodeMap : List OpcodeRow :=
  [rowOf .cls, rowOf .ret, rowOf (.jp 0), rowOf (.call 0), rowOf (.seImm 0 0), rowOf (.sneImm 0 0), rowOf (.seReg 0 0),
   rowOf (.ldImm 0 0), rowOf (.addImm 0 0), rowOf (.ldReg 0 0), rowOf (.orReg 0 0), rowOf (.andReg 0 0),
   rowOf (.xorReg 0 0), rowOf (.addReg 0 0), rowOf (.subReg 0 0), rowOf (.shr 0 0), rowOf (.subn 0 0), rowOf (.shl 0 0),
   rowOf (.sneReg 0 0), rowOf (.ldI 0), rowOf (.jpV0 0), rowOf (.rnd 0 0), rowOf (.drw 0 0 0), rowOf (.skp 0),
   rowOf (.sknp 0), rowOf (.ldVxDT 0), rowOf (.ldVxK 0), rowOf (.ldDTVx 0), rowOf (.ldSTVx 0), rowOf (.addI 0),
   rowOf (.ldF 0), rowOf (.ldB 0), rowOf (.ldMemVx 0), rowOf (.ldVxMem 0)]

end Sys2Proof
end

