-- ==== Sys2Proof/Machine/Font.lean ====
section
/-! DEFINITION. The font table, the parameter `FONT[0..79]` at its default (spec/70_reset_and_hazards.md R223; log 10). -/

namespace Sys2Proof.Machine

/-- The 16 glyphs of R223, five rows each, digit 0 first. -/
def font : List Byte :=
  [0xF0, 0x90, 0x90, 0x90, 0xF0] ++ -- 0
  [0x20, 0x60, 0x20, 0x20, 0x70] ++ -- 1
  [0xF0, 0x10, 0xF0, 0x80, 0xF0] ++ -- 2
  [0xF0, 0x10, 0xF0, 0x10, 0xF0] ++ -- 3
  [0x90, 0x90, 0xF0, 0x10, 0x10] ++ -- 4
  [0xF0, 0x80, 0xF0, 0x10, 0xF0] ++ -- 5
  [0xF0, 0x80, 0xF0, 0x90, 0xF0] ++ -- 6
  [0xF0, 0x10, 0x20, 0x40, 0x40] ++ -- 7
  [0xF0, 0x90, 0xF0, 0x90, 0xF0] ++ -- 8
  [0xF0, 0x90, 0xF0, 0x10, 0xF0] ++ -- 9
  [0xF0, 0x90, 0xF0, 0x90, 0x90] ++ -- A
  [0xE0, 0x90, 0xE0, 0x90, 0xE0] ++ -- B
  [0xF0, 0x80, 0x80, 0x80, 0xF0] ++ -- C
  [0xE0, 0x90, 0x90, 0x90, 0xE0] ++ -- D
  [0xF0, 0x80, 0xF0, 0x80, 0xF0] ++ -- E
  [0xF0, 0x80, 0xF0, 0x80, 0x80] -- F

end Sys2Proof.Machine
end

