-- ==== Sys2Proof/Config.lean ====
section
/-! DEFINITION. The parameters of the core (spec/00_scope.md R7), the host's events (spec/40_engine_step.md R100) and the
free values of what the host presents (spec/10_state.md R36, R37, R109). The font bytes stand in Machine/Font.lean; `NUM_V`, `I_WIDTH`, `PC_WIDTH`,
`STACK_LEVELS`, `DISP_W`, `DISP_H`, `NUM_KEYS` and `TIMER_WIDTH` are the sizes in the types of `Machine.State`. -/

namespace Sys2Proof

/-- The four events, the only ways the state changes (R100). -/
inductive HostEvent where
  /-- `reset(image)` (R220) -/
  | reset (image : List Byte)
  /-- `step(keys, rnd)` (R101) -/
  | step (keys : Word) (rnd : Byte)
  /-- `tick` (R106) -/
  | tick
  /-- `frame_ack` (R107) -/
  | frameAck
  deriving DecidableEq, Repr

namespace Config

/-- `MEM_SIZE` (R7, R50): bytes of memory, addresses 0 to 4095. -/
abbrev memSize : Nat := 4096

/-- `FONT_BASE` (R7, R52): address of the font table. -/
abbrev fontBase : Nat := 0x050

/-- `FONT_LEN` (R7, R52): bytes of the font table. -/
abbrev fontLen : Nat := 80

/-- `PROG_BASE` (R7, R52): load address of the program and reset value of `pc`. -/
abbrev progBase : Nat := 0x200

/-- `PROG_MAX` (R7, R221): the largest program image in bytes. -/
abbrev progMax : Nat := 3584

/-- FREE VALUE (R36, R105; log 4): the key vector the host presents after the `n`-th `step` event. It has no body, so
no proof can see it: no rule relates the vectors of different steps. -/
opaque freeKeys : Nat → Word

/-- FREE VALUE (R37, R105, R142; log 4): the random byte the host presents after the `n`-th `step` event. It has no
body: the generator lies outside the core and its draws are under no law. -/
opaque freeRnd : Nat → Byte

/-- FREE VALUE (R109, R227; log 5): the events the host issues between the `n`-th `step` event and the next one, where the
agenda says nothing. It has no body: the interleaving of `step`, `tick`, `frame_ack` and `reset` is the host's choice. -/
opaque freeEvents : Nat → List HostEvent

end Config

end Sys2Proof
end

