-- ==== Sys2Proof/Machine/State.lean ====
section
/-! DEFINITION. The state of the CHIP-8 core as plain data (spec/10_state.md), the faults a step reports
(spec/60_exceptions.md R190), and the state after reset (R40). -/

namespace Sys2Proof.Machine

/-- The kind of a memory access (R59, R194). -/
inductive Access where
  | fetch
  | read
  | write
  deriving DecidableEq, Repr

/-- The faults a `step` reports (R190). Each is part of the OUTCOME of a step the core completes (R196): a step that
raises one answers a NEXT state, with the fault in `State.outcome` and `pc` as R196 says, and the core goes on from it.
So `Host.Outcome.fault` is answered by no step. `pc0` is R190's `at`, the address of the faulting instruction. -/
inductive Fault where
  /-- Code 1. Raised by the engine on a word outside the opcode map (R191). Safe: the spec's own outcome. -/
  | unknownOpcode (pc0 word : Word)
  /-- Code 2. Raised by `CALL addr` at depth 16 (R192). Safe: the spec's own outcome. -/
  | stackOverflow (pc0 : Word)
  /-- Code 3. Raised by `RET` at depth 0 (R193). Safe: the spec's own outcome. -/
  | stackUnderflow (pc0 : Word)
  /-- Code 4. Raised by the fetch, `DRW`, `LD B, Vx`, `LD [I], Vx` and `LD Vx, [I]` on a range that passes address 4095
  (R194); `lo` and `hi` are its first and last address, unreduced. Safe: the spec's own outcome. -/
  | memoryOutOfRange (pc0 : Word) (access : Access) (lo hi : Nat)
  /-- Code 5. Raised by `SKP Vx` and `SKNP Vx` on a key number above 15 (R195). Safe: the spec's own outcome. -/
  | keyIndexOutOfRange (pc0 : Word) (value : Byte)
  deriving DecidableEq, Repr

/-- Why the model gives an event no meaning. -/
inductive Refusal where
  /-- Answered by an arm of `exec` whose instruction has no meaning yet (none has this arm). Safe. -/
  | notModelled (mnemonic : String)
  /-- Answered by the machine's step for an event other than `reset` before the first `reset`: the state is then
  unspecified and a model refuses it (R224). Safe. -/
  | beforeReset
  deriving DecidableEq, Repr

/-- The outcome of a `step` event (R11). -/
inductive StepOutcome where
  /-- one instruction executed -/
  | ok
  /-- the instruction was the key wait and no key is down (R186) -/
  | waiting
  /-- the step reported a fault (R190) -/
  | fault (f : Fault)
  deriving DecidableEq, Repr

/-- Memory: the bytes that differ from what an unlisted address reads as (log 9). -/
abbrev Memory := List Host.Cell

/-- The display: 32 rows of 64 one-bit cells (R32). -/
abbrev Display := Vector (Vector Bool 64) 32

/-- The state of the core between events. The first ten fields are the spec's whole state (R20, R34, R35); the six
after them are the model's own: the output of the last step, the two input ports, and what the model keeps about the
host (logs 1 to 7). -/
structure State where
  /-- `V0` .. `VF` (R20) -/
  v : Vector Byte 16
  /-- the index register `I` (R23) -/
  i : Word
  /-- the program counter (R24) -/
  pc : Word
  /-- the slots of the call stack (R26) -/
  stack : Vector Word 16
  /-- the number of return addresses on the stack, 0 to 16 (R27) -/
  sp : Fin 17
  /-- the delay timer `DT` (R29) -/
  dt : Byte
  /-- the sound timer `ST` (R31) -/
  st : Byte
  /-- the display buffer (R32) -/
  disp : Display
  /-- `draw_flag` (R33) -/
  drawFlag : Bool
  /-- the 4096 bytes of memory (R34) -/
  mem : Memory
  /-- OUTPUT: the outcome of the last `step` (R11); nothing reads it (log 1) -/
  outcome : StepOutcome
  /-- INPUT: the key vector the next `step` samples (R36; log 3) -/
  keys : Word
  /-- INPUT: the random byte the next `step` samples (R37; log 3) -/
  rnd : Byte
  /-- the number of `step` events so far, the index of the next free inputs (log 4) -/
  samples : Nat
  /-- the events the host will issue next, the first one first; a `step` where it is empty (log 5) -/
  agenda : List HostEvent
  /-- a `reset` has been issued (R224; log 7) -/
  started : Bool
  deriving DecidableEq, Repr

/-- The state right after `reset` with an empty image (R40, R220, R230): all zero but for the font, which is what the
unlisted addresses of the font region read as, and `pc`. The model's own fields are as logs 2 to 5 and 7 say. -/
def State.reset : State where
  v := Vector.replicate 16 0
  i := 0
  pc := 0x200
  stack := Vector.replicate 16 0
  sp := 0
  dt := 0
  st := 0
  disp := Vector.replicate 32 (Vector.replicate 64 false)
  drawFlag := false
  mem := []
  outcome := .ok
  keys := 0
  rnd := 0
  samples := 0
  agenda := []
  started := true

end Sys2Proof.Machine
end

