-- ==== Sys2Proof/Machine/Ops.lean ====
section
/-! DEFINITION. The named operations over memory, registers, stack, display and outcome that every meaning is written
with (spec/00_scope.md R9). -/

namespace Sys2Proof.Machine

/-! ### Memory -/

/-- What an address reads as while nothing has been written there since reset: the font in its region, zero elsewhere
(R40, R52; log 9). -/
def Memory.unlisted (a : Nat) : Byte :=
  if Config.fontBase ≤ a ∧ a < Config.fontBase + Config.fontLen then font.getD (a - Config.fontBase) 0 else 0

/-- `MemRead(addr, 1)` (R9, R51). Meanings check the range first, so `a` is at most 4095 wherever this is used. -/
def Memory.read : Memory → Nat → Byte
  | [], a => Memory.unlisted a
  | (k, b) :: rest, a => if a = k then b else Memory.read rest a

/-- List `b` at `a`, unless `b` is what an unlisted `a` reads as. -/
def Memory.consCell (a : Nat) (b : Byte) (rest : Memory) : Memory :=
  if b = Memory.unlisted a then rest else (a, b) :: rest

/-- Put `b` at `a` in a memory in canonical form, keeping that form. -/
def Memory.insert : Memory → Nat → Byte → Memory
  | [], a, b => Memory.consCell a b []
  | (k, c) :: rest, a, b =>
    if a < k then Memory.consCell a b ((k, c) :: rest)
    else if a = k then Memory.consCell a b rest
    else (k, c) :: Memory.insert rest a b

/-- `MemWrite(addr, 1, b)` (R9, R51): there is no address above 4095, so nothing is stored there. -/
def Memory.write (m : Memory) (a : Nat) (b : Byte) : Memory :=
  if a < Config.memSize then Memory.insert m a b else m

/-- Store bytes at ascending addresses from `a` (R55). -/
def Memory.writeBytes : Memory → Nat → List Byte → Memory
  | m, _, [] => m
  | m, a, b :: bs => Memory.writeBytes (Memory.write m a b) (a + 1) bs

/-- Every address listed from `lo` on is at least `lo`, exists, rises, and holds what an unlisted one would not. -/
def Memory.wfFrom : Nat → Memory → Bool
  | _, [] => true
  | lo, (k, b) :: rest =>
    decide (lo ≤ k) && decide (k < Config.memSize) && decide (b ≠ Memory.unlisted k) && Memory.wfFrom (k + 1) rest

/-- The canonical form of a memory: equal memories are equal lists (log 9). -/
def Memory.wf (m : Memory) : Bool := Memory.wfFrom 0 m

/-! ### One update per field -/

/-- `I <- w` -/
def State.setI (s : State) (w : Word) : State := { s with i := w }

/-- `pc <- w` -/
def State.setPc (s : State) (w : Word) : State := { s with pc := w }

/-- `DT <- b` -/
def State.setDT (s : State) (b : Byte) : State := { s with dt := b }

/-- `ST <- b` -/
def State.setST (s : State) (b : Byte) : State := { s with st := b }

/-- `draw_flag <- b` -/
def State.setDrawFlag (s : State) (b : Bool) : State := { s with drawFlag := b }

/-- Replace the memory. -/
def State.setMem (s : State) (m : Memory) : State := { s with mem := m }

/-- Replace the display buffer. -/
def State.setDisp (s : State) (d : Display) : State := { s with disp := d }

/-- Replace the slots of the call stack and its depth. -/
def State.setStack (s : State) (slots : Vector Word 16) (depth : Fin 17) : State :=
  { s with stack := slots, sp := depth }

/-- Report the outcome of the step (R11). -/
def State.setOutcome (s : State) (o : StepOutcome) : State := { s with outcome := o }

/-- Present the inputs of the next `step` (R36, R37). -/
def State.setInputs (s : State) (keys : Word) (rnd : Byte) : State := { s with keys := keys, rnd := rnd }

/-- The host's remaining events (log 5). -/
def State.setAgenda (s : State) (events : List HostEvent) : State := { s with agenda := events }

/-- Count the `step` events (log 4). -/
def State.setSamples (s : State) (n : Nat) : State := { s with samples := n }

/-! ### Registers -/

/-- `V[r]` (R9, R20). -/
def State.getV (s : State) (r : Reg) : Byte := s.v[r]

/-- `V[r] <- b` (R9, R20): no register is hardwired. -/
def State.setV (s : State) (r : Reg) (b : Byte) : State := { s with v := s.v.set r.val b r.isLt }

/-! ### Program counter -/

/-- `pc <- (pc + 2) mod 65536` (R103). -/
def State.advancePc (s : State) : State := s.setPc (s.pc + 2)

/-- `pc <- (pc - 2) mod 65536` (R186). -/
def State.rewindPc (s : State) : State := s.setPc (s.pc - 2)

/-- The address of the instruction in execution, `at` of R190: `pc` already holds it plus 2 (R24, R103; log 6). -/
def State.instrAddr (s : State) : Word := s.pc - 2

/-! ### Memory of the state -/

/-- `MemRead(a, 1)` -/
def State.readByte (s : State) (a : Nat) : Byte := Memory.read s.mem a

/-- Store bytes at ascending addresses from `a`. -/
def State.storeBytes (s : State) (a : Nat) (bs : List Byte) : State := s.setMem (Memory.writeBytes s.mem a bs)

/-! ### Call stack -/

/-- `stack[k]` (R26). -/
def State.slot (s : State) (k : Fin 16) : Word := s.stack[k]

/-- Push a return address: `stack[sp] <- ret; sp <- sp + 1`, or `none` where 16 are held (R27, R113). -/
def State.push (s : State) (ret : Word) : Option State :=
  if h : s.sp.val < 16 then
    some (s.setStack (s.stack.set s.sp.val ret h) ⟨s.sp.val + 1, Nat.succ_lt_succ h⟩)
  else none

/-- Pop a return address: `sp <- sp - 1`, then `stack[sp]`, or `none` where none is held (R27, R111). The popped slot
keeps its value (R26). -/
def State.pop (s : State) : Option (Word × State) :=
  if h : 0 < s.sp.val then
    have top : s.sp.val - 1 < 16 := by have := s.sp.isLt; omega
    some (s.stack[s.sp.val - 1], s.setStack s.stack ⟨s.sp.val - 1, Nat.lt_succ_of_lt top⟩)
  else none

/-! ### Display -/

/-- The display cell at a row and a column, `disp[row*64 + col]` (R32). -/
def State.cell (s : State) (row : Fin 32) (col : Fin 64) : Bool := s.disp[row][col]

/-- `disp[c]` by the cell's index `c = row*64 + col` (R32). -/
def State.cellAt (s : State) (c : Fin 2048) : Bool :=
  s.cell (Fin.ofNat 32 (c.val / 64)) (Fin.ofNat 64 c.val)

/-- Toggle one cell, `disp[c] <- disp[c] xor 1` (R172). -/
def State.flipCell (s : State) (row : Fin 32) (col : Fin 64) : State :=
  s.setDisp (s.disp.set row.val (s.disp[row].set col.val (!s.cell row col) col.isLt) row.isLt)

/-- Every cell to 0 (R171). -/
def State.clearDisp (s : State) : State :=
  s.setDisp (Vector.replicate 32 (Vector.replicate 64 false))

/-! ### The end of a step (R11, R196) -/

/-- The three outcomes of the host's interface, for this machine. -/
abbrev Result := Host.Outcome State Fault Refusal

/-- The instruction completes: outcome `ok`. -/
def State.complete (s : State) : Result := .next (s.setOutcome .ok)

/-- `wait` (R9, R186): the step ends with outcome `waiting`. -/
def State.wait (s : State) : Result := .next (s.setOutcome .waiting)

/-- `raise` (R9, R196), the one way a fault is taken. The step ends with outcome `fault`; there is no handler, no saved
register and no change of mode, so nothing else changes: `pc` stays as it stands, advanced for a fault raised in decode
or execute and not advanced for a fetch fault. There is no return from it (R198): the next step goes on from here. -/
def State.raise (s : State) (f : Fault) : Result := .next (s.setOutcome (.fault f))

/-- The numeric code of a fault kind (R190). -/
def Fault.code : Fault → Nat
  | .unknownOpcode _ _ => 1
  | .stackOverflow _ => 2
  | .stackUnderflow _ => 3
  | .memoryOutOfRange _ _ _ _ => 4
  | .keyIndexOutOfRange _ _ => 5

/-- The numeric code of an outcome: 0 where there is no fault (R190). -/
def StepOutcome.code : StepOutcome → Nat
  | .ok => 0
  | .waiting => 0
  | .fault f => f.code

/-- What the host can observe between events: `disp`, `draw_flag`, `ST` and the outcome of the last step (R42). -/
def State.observed (s : State) : Display × Bool × Byte × StepOutcome := (s.disp, s.drawFlag, s.st, s.outcome)

/-- The bounds check that comes before every access of an instruction (R51, R150, R194): `count` bytes from `lo`, each
at most 4095, or `MemoryOutOfRange`; no check where no byte is touched. -/
def State.checkRange (s : State) (access : Access) (lo count : Nat) (body : Result) : Result :=
  if 0 < count ∧ Config.memSize ≤ lo + count - 1 then
    s.raise (.memoryOutOfRange s.instrAddr access lo (lo + count - 1))
  else body

end Sys2Proof.Machine
end

