-- ==== Sys2Proof/Machine/Flags.lean ====
section
/-! DEFINITION. The conditions reported in `VF` (spec/10_state.md R21, spec/42_alu.md R130) and the order in which the
flag-writing instructions run (R130, spec/00_scope.md R10). -/

namespace Sys2Proof.Machine

/-- A flag as the byte `VF` holds: 0 or 1 (R21). -/
def flagByte (b : Bool) : Byte := if b then 1 else 0

/-- Carry out of an addition: the 9-bit sum exceeds 255 (R137). -/
def carryOut (a b : Byte) : Bool := decide (255 < a.toNat + b.toNat)

/-- The strict comparison that `SUB` and `SUBN` report: equal operands give 0 (R138, R140). -/
def strictlyAbove (a b : Byte) : Bool := decide (b.toNat < a.toNat)

/-- The bit a right shift drops (R139). -/
def lowBit (a : Byte) : Bool := a.getLsbD 0

/-- The bit a left shift drops (R141). -/
def highBit (a : Byte) : Bool := a.getLsbD 7

/-- The common shape of the flag-writing instructions of class 8 (R130): `VF <- 0`; `VF <- flag`; `V[x] <- result`. The
statements run in that order and each reads the registers as they then stand (R10), which is what decides the cases
where `VF` is named as an operand. -/
def State.aluWithFlag (s : State) (x : Reg) (flag : State → Bool) (result : State → Byte) : State :=
  let cleared := s.setV vf 0
  let flagged := cleared.setV vf (flagByte (flag cleared))
  flagged.setV x (result flagged)

end Sys2Proof.Machine
end

