-- ==== Sys2Proof/Machine/Operands.lean ====
section
/-! DEFINITION. The operand forms: what each kind of operand selects (spec/30_encoding.md R73,
spec/43_index_memory.md R150). -/

namespace Sys2Proof.Machine

/-- `zext_16(addr)`: an address operand is absolute (R73). -/
def addrOperand (addr : Addr) : Word := addr.setWidth 16

/-- `zext_16(V[r])` (R118, R152). -/
def State.wideV (s : State) (r : Reg) : Word := (s.getV r).setWidth 16

/-- `EA_k = I + k`, formed in unbounded integers (R150). -/
def State.dataAddr (s : State) (k : Nat) : Nat := s.i.toNat + k

/-- `0x50 + 5*d`, from the whole byte `d` (R153). -/
def glyphAddr (d : Byte) : Word := 0x050 + 5 * d.setWidth 16

/-- The decimal digits of a byte, hundreds first (R154). -/
def bcdDigits (b : Byte) : List Byte := [b / 100, b / 10 % 10, b % 10]

/-- `V[0]` .. `V[x]`, in order (R155). -/
def State.regBlock (s : State) (x : Reg) : List Byte := s.v.toList.take (x.val + 1)

/-- `for k in 0 .. n-1: V[k] <- MemRead(I + k, 1)` (R156). -/
def State.loadBlock (s : State) : Nat → State
  | 0 => s
  | n + 1 => (s.loadBlock n).setV (Fin.ofNat 16 n) (s.readByte (s.dataAddr n))

/-- `keys[k] == 1` (R36). -/
def State.keyDown (s : State) (k : Nat) : Bool := s.keys.getLsbD k

/-- The least `k` in 0..15 with `keys[k] == 1`, or `none` where no key is down (R186). -/
def State.lowestKey (s : State) : Option Nat := (List.range 16).find? s.keyDown

/-- The display row of a sprite row: `(V[y] + row) mod 32`, from the register as it stands (R172). -/
def State.spriteRow (s : State) (y : Reg) (row : Nat) : Fin 32 :=
  Fin.ofNat 32 ((s.getV y).toNat + row)

/-- The display column of a sprite column: `(V[x] + col) mod 64`, from the register as it stands (R172). -/
def State.spriteCol (s : State) (x : Reg) (col : Nat) : Fin 64 :=
  Fin.ofNat 64 ((s.getV x).toNat + col)

end Sys2Proof.Machine
end

