-- ==== Sys2Proof/Machine/Alu.lean ====
section
/-! DEFINITION. Register loads, the ALU and the random instruction (spec/42_alu.md). -/

namespace Sys2Proof.Machine

/-- 6xkk `LD Vx, byte` (R131). -/
def execLdImm (x : Reg) (imm : Byte) (s : State) : Result := (s.setV x imm).complete

/-- 7xkk `ADD Vx, byte` (R132): no carry is recorded. -/
def execAddImm (x : Reg) (imm : Byte) (s : State) : Result := (s.setV x (s.getV x + imm)).complete

/-- 8xy0 `LD Vx, Vy` (R133). -/
def execLdReg (x y : Reg) (s : State) : Result := (s.setV x (s.getV y)).complete

/-- 8xy1 `OR Vx, Vy` (R134): `VF` is not written. -/
def execOrReg (x y : Reg) (s : State) : Result := (s.setV x (s.getV x ||| s.getV y)).complete

/-- 8xy2 `AND Vx, Vy` (R135): `VF` is not written. -/
def execAndReg (x y : Reg) (s : State) : Result := (s.setV x (s.getV x &&& s.getV y)).complete

/-- 8xy3 `XOR Vx, Vy` (R136): `VF` is not written. -/
def execXorReg (x y : Reg) (s : State) : Result := (s.setV x (s.getV x ^^^ s.getV y)).complete

/-- 8xy4 `ADD Vx, Vy` (R137). -/
def execAddReg (x y : Reg) (s : State) : Result :=
  (s.aluWithFlag x (fun t => carryOut (t.getV x) (t.getV y)) (fun t => t.getV x + t.getV y)).complete

/-- 8xy5 `SUB Vx, Vy` (R138). -/
def execSubReg (x y : Reg) (s : State) : Result :=
  (s.aluWithFlag x (fun t => strictlyAbove (t.getV x) (t.getV y)) (fun t => t.getV x - t.getV y)).complete

/-- 8xy6 `SHR Vx {, Vy}` (R139): `V[y]` is neither read nor written (R78). -/
def execShr (x _y : Reg) (s : State) : Result :=
  (s.aluWithFlag x (fun t => lowBit (t.getV x)) (fun t => t.getV x >>> 1)).complete

/-- 8xy7 `SUBN Vx, Vy` (R140). -/
def execSubn (x y : Reg) (s : State) : Result :=
  (s.aluWithFlag x (fun t => strictlyAbove (t.getV y) (t.getV x)) (fun t => t.getV y - t.getV x)).complete

/-- 8xyE `SHL Vx {, Vy}` (R141): `V[y]` is neither read nor written (R78). -/
def execShl (x _y : Reg) (s : State) : Result :=
  (s.aluWithFlag x (fun t => highBit (t.getV x)) (fun t => t.getV x <<< 1)).complete

/-- Cxkk `RND Vx, byte` (R142): the random byte is the step's input (R37). -/
def execRnd (x : Reg) (imm : Byte) (s : State) : Result := (s.setV x (s.rnd &&& imm)).complete

end Sys2Proof.Machine
end

