-- ==== Sys2Proof/Machine/Control.lean ====
section
/-! DEFINITION. Control transfer (spec/41_control_flow.md). In every meaning `pc` already holds the address of the
instruction plus 2 (R103). -/

namespace Sys2Proof.Machine

/-- A compare-and-skip: `if taken then pc <- (pc + 2) mod 65536` (R110). -/
def State.skipIf (s : State) (taken : Bool) : Result :=
  if taken then s.advancePc.complete else s.complete

/-- 00EE `RET` (R111, R193). -/
def execRet (s : State) : Result :=
  match s.pop with
  | some (target, popped) => (popped.setPc target).complete
  | none => s.raise (.stackUnderflow s.instrAddr)

/-- 1nnn `JP addr` (R112). -/
def execJp (addr : Addr) (s : State) : Result := (s.setPc (addrOperand addr)).complete

/-- 2nnn `CALL addr` (R113, R192): the pushed value is the advanced `pc`. -/
def execCall (addr : Addr) (s : State) : Result :=
  match s.push s.pc with
  | some pushed => (pushed.setPc (addrOperand addr)).complete
  | none => s.raise (.stackOverflow s.instrAddr)

/-- 3xkk `SE Vx, byte` (R114). -/
def execSeImm (x : Reg) (imm : Byte) (s : State) : Result := s.skipIf (s.getV x == imm)

/-- 4xkk `SNE Vx, byte` (R115). -/
def execSneImm (x : Reg) (imm : Byte) (s : State) : Result := s.skipIf (s.getV x != imm)

/-- 5xy0 `SE Vx, Vy` (R116). -/
def execSeReg (x y : Reg) (s : State) : Result := s.skipIf (s.getV x == s.getV y)

/-- 9xy0 `SNE Vx, Vy` (R117). -/
def execSneReg (x y : Reg) (s : State) : Result := s.skipIf (s.getV x != s.getV y)

/-- Bnnn `JP V0, addr` (R118). -/
def execJpV0 (addr : Addr) (s : State) : Result := (s.setPc (addrOperand addr + s.wideV 0)).complete

end Sys2Proof.Machine
end

