-- ==== Sys2Proof/Machine/Display.lean ====
section
/-! DEFINITION. The display instructions and the sprite compositor (spec/44_display.md). -/

namespace Sys2Proof.Machine

/-- One 1-bit of the sprite (R172): find its cell from the coordinate registers as they stand, record a collision in
`VF`, toggle the cell. -/
def State.drawDot (s : State) (x y : Reg) (row col : Nat) : State :=
  let r := s.spriteRow y row
  let c := s.spriteCol x col
  (if s.cell r c then s.setV vf 1 else s).flipCell r c

/-- The first `cols` columns of one row byte, most significant bit first (R170, R172). -/
def State.drawCols (s : State) (x y : Reg) (row : Nat) (b : Byte) : Nat → State
  | 0 => s
  | col + 1 =>
    let left := s.drawCols x y row b col
    if b.getLsbD (7 - col) then left.drawDot x y row col else left

/-- The first `rows` rows of the sprite at `I`, each a byte of 8 columns (R172). -/
def State.drawRows (s : State) (x y : Reg) : Nat → State
  | 0 => s
  | row + 1 =>
    let above := s.drawRows x y row
    above.drawCols x y row (above.readByte (above.dataAddr row)) 8

/-- 00E0 `CLS` (R171). -/
def execCls (s : State) : Result := (s.clearDisp.setDrawFlag true).complete

/-- Dxyn `DRW Vx, Vy, n` (R172). -/
def execDrw (x y : Reg) (n : Fin 16) (s : State) : Result :=
  s.checkRange .read (s.dataAddr 0) n.val (((s.setV vf 0).drawRows x y n.val).setDrawFlag true).complete

end Sys2Proof.Machine
end

