-- ==== Sys2Proof/Machine/IndexMemory.lean ====
section
/-! DEFINITION. The index register, the BCD converter and the block copies (spec/43_index_memory.md). -/

namespace Sys2Proof.Machine

/-- Annn `LD I, addr` (R151). -/
def execLdI (addr : Addr) (s : State) : Result := (s.setI (addrOperand addr)).complete

/-- Fx1E `ADD I, Vx` (R152): modulo 65536, no flag, no fault. -/
def execAddI (x : Reg) (s : State) : Result := (s.setI (s.i + s.wideV x)).complete

/-- Fx29 `LD F, Vx` (R153). -/
def execLdF (x : Reg) (s : State) : Result := (s.setI (glyphAddr (s.getV x))).complete

/-- Fx33 `LD B, Vx` (R154): hundreds, tens and ones at `I`, `I+1`, `I+2`. -/
def execLdB (x : Reg) (s : State) : Result :=
  s.checkRange .write (s.dataAddr 0) 3 (s.storeBytes (s.dataAddr 0) (bcdDigits (s.getV x))).complete

/-- Fx55 `LD [I], Vx` (R155): `V0` to `Vx` at `I` upward; `I` is unchanged. -/
def execLdMemVx (x : Reg) (s : State) : Result :=
  s.checkRange .write (s.dataAddr 0) (x.val + 1) (s.storeBytes (s.dataAddr 0) (s.regBlock x)).complete

/-- Fx65 `LD Vx, [I]` (R156): `V0` to `Vx` from `I` upward; `I` is unchanged. -/
def execLdVxMem (x : Reg) (s : State) : Result :=
  s.checkRange .read (s.dataAddr 0) (x.val + 1) (s.loadBlock (x.val + 1)).complete

end Sys2Proof.Machine
end

