-- ==== Sys2Proof/Machine/TimersKeyboard.lean ====
section
/-! DEFINITION. The timer and keyboard instructions (spec/45_timers_keyboard.md). -/

namespace Sys2Proof.Machine

/-- Fx07 `LD Vx, DT` (R181). -/
def execLdVxDT (x : Reg) (s : State) : Result := (s.setV x s.dt).complete

/-- Fx15 `LD DT, Vx` (R182). -/
def execLdDTVx (x : Reg) (s : State) : Result := (s.setDT (s.getV x)).complete

/-- Fx18 `LD ST, Vx` (R183). -/
def execLdSTVx (x : Reg) (s : State) : Result := (s.setST (s.getV x)).complete

/-- The check both key skips make first: the whole byte `V[x]` is the key number, 0 to 15 (R184, R185, R195). -/
def State.checkKey (s : State) (x : Reg) (body : Result) : Result :=
  if 15 < (s.getV x).toNat then s.raise (.keyIndexOutOfRange s.instrAddr (s.getV x)) else body

/-- Ex9E `SKP Vx` (R184). -/
def execSkp (x : Reg) (s : State) : Result := s.checkKey x (s.skipIf (s.keyDown (s.getV x).toNat))

/-- ExA1 `SKNP Vx` (R185). -/
def execSknp (x : Reg) (s : State) : Result := s.checkKey x (s.skipIf (!s.keyDown (s.getV x).toNat))

/-- Fx0A `LD Vx, K` (R186): with no key down, `pc` goes back to this instruction and the step ends `waiting`. -/
def execLdVxK (x : Reg) (s : State) : Result :=
  match s.lowestKey with
  | none => s.rewindPc.wait
  | some k => (s.setV x (BitVec.ofNat 8 k)).complete

end Sys2Proof.Machine
end

