-- ==== Sys2Proof/WellFormed.lean ====
section
/-! DEFINITION. Well-formedness of what reaches the core from outside it. An `Instr` needs no check: each operand has
the exact width of its field (R72) and every value of a field is valid (R73), so every term of `Instr` is an
instruction. A program image needs one: its length (spec/70_reset_and_hazards.md R221, R222). -/

namespace Sys2Proof

/-- A program image that `reset` loads: 0 to 3584 bytes (R221). A longer one is refused as a whole (R222). -/
def imageFits (image : List Byte) : Bool := decide (image.length ≤ Config.progMax)

end Sys2Proof
end

