-- ==== Sys2Proof/Machine/Events.lean ====
section
/-! DEFINITION. The host's events but `step` (spec/40_engine_step.md R100, R106 to R108,
spec/70_reset_and_hazards.md R220 to R222). -/

namespace Sys2Proof.Machine

/-- A timer one tick on, to a floor of 0 (R30, R106). -/
def decrement (b : Byte) : Byte := if b = 0 then 0 else b - 1

/-- `tick` (R106): both timers, each independently, and nothing else. -/
def State.tick (s : State) : State := (s.setDT (decrement s.dt)).setST (decrement s.st)

/-- `frame_ack` (R107): the draw flag, and nothing else. -/
def State.frameAck (s : State) : State := s.setDrawFlag false

/-- The bytes of an image that `reset` loads: all of it, or none where it does not fit (R221, R222; log 12). -/
def loadable (image : List Byte) : List Byte := if imageFits image then image else []

/-- The memory after `reset(image)` (R220): the image from 0x200 on, everything else as in R40. -/
def bootMemory (image : List Byte) : Memory := Memory.writeBytes [] Config.progBase (loadable image)

/-- `reset(image)` (R220): every piece of the core's state to its value of R40. What the model keeps about the host
(the inputs it presents, its agenda, the count of samples) is the host's and stays (log 5). -/
def State.reboot (s : State) (image : List Byte) : State :=
  { State.reset with
    mem := bootMemory image, keys := s.keys, rnd := s.rnd, samples := s.samples, agenda := s.agenda }

/-- The requests that may arrive together (R108). -/
structure Requests where
  reset : Option (List Byte)
  frameAck : Bool
  step : Option (Word × Byte)
  tick : Bool
  deriving DecidableEq, Repr

/-- The order in which coincident requests are served (R108): `reset` overrides all; otherwise `frame_ack`, then
`step`, then `tick`. -/
def Requests.serialise (r : Requests) : List HostEvent :=
  match r.reset with
  | some image => [.reset image]
  | none =>
    (if r.frameAck then [.frameAck] else []) ++
      (match r.step with
        | some (keys, rnd) => [.step keys rnd]
        | none => []) ++
      (if r.tick then [.tick] else [])

end Sys2Proof.Machine
end

