-- ==== Sys2Proof/Machine/Engine.lean ====
section
/-! DEFINITION. The engine: one `step` event (spec/40_engine_step.md R101) and the machine that takes the host's events
one at a time (R100, R108). -/

namespace Sys2Proof.Machine

/-- The instruction word at `pc`: two one-byte reads, high byte first (R54, R101). -/
def State.fetchWord (s : State) : Word := wordOfBytes (s.readByte s.pc.toNat) (s.readByte (s.pc.toNat + 1))

/-- The contract of one step (R101): the fetch with its range check, the advance of `pc`, decode, execute. The checks
come in this order and a later one is not made once an earlier one fails (R197). -/
def State.runInstruction (s : State) : Result :=
  if Config.memSize ≤ s.pc.toNat + 1 then
    s.raise (.memoryOutOfRange s.pc .fetch s.pc.toNat (s.pc.toNat + 1))
  else
    match decodeWord s.fetchWord with
    | .error _ => s.advancePc.raise (.unknownOpcode s.pc s.fetchWord)
    | .ok i => exec i s.advancePc

/-- The events the host issues next: those it has announced, or else any (R109; log 5). -/
def State.freshAgenda (s : State) : List HostEvent :=
  match s.agenda with
  | [] => Config.freeEvents s.samples
  | e :: rest => e :: rest

/-- After a `step` the host is free to issue any events and to present any inputs (R36, R37, R105, R109; logs 4, 5). -/
def State.hostTurn (s : State) : State :=
  ((s.setInputs (Config.freeKeys s.samples) (Config.freeRnd s.samples)).setAgenda s.freshAgenda).setSamples (s.samples + 1)

/-- Change the state of a result that has one. -/
def mapNext (f : State → State) : Result → Result
  | .next s => .next (f s)
  | .fault e => .fault e
  | .refused r => .refused r

/-- Before the first `reset` only `reset` has a meaning (R224; log 7). -/
def State.whenStarted (s : State) (body : Result) : Result := if s.started then body else .refused .beforeReset

/-- The event `step(keys, rnd)` with the inputs that the state's ports present (R101, R105). -/
def State.stepEvent (s : State) : Result := s.whenStarted (mapNext State.hostTurn s.runInstruction)

/-- One event of the host (R100). -/
def State.handle (s : State) : HostEvent → Result
  | .reset image => .next (s.reboot image)
  | .step keys rnd => (s.setInputs keys rnd).stepEvent
  | .tick => s.whenStarted (.next s.tick)
  | .frameAck => s.whenStarted (.next s.frameAck)

/-- The machine's next event (log 5): the first of the host's agenda, or a `step` where the agenda is empty. Events are
serialized and each sees the state its predecessor left (R108). -/
def State.nextEvent (s : State) : Result :=
  match s.agenda with
  | [] => s.stepEvent
  | e :: rest => (s.setAgenda rest).handle e

end Sys2Proof.Machine
end

