-- ==== Sys2Proof/Machine/Step.lean ====
section
/-! DEFINITION. The machine's step and the host's way to place an instruction (log 8). -/

namespace Sys2Proof.Machine

/-- One event of the machine: see `State.nextEvent`. -/
def step (s : State) : Host.Outcome State Fault Refusal := s.nextEvent

/-- The instruction whose bits are `w` stored at `pc`, with nothing on the agenda and the core reset, so that the very
next step fetches and runs it (log 8). -/
def State.withFetchWord (s : State) (nbits w : Nat) : State :=
  { s.storeBytes s.pc.toNat [hiByte (tableWord nbits w), loByte (tableWord nbits w)] with agenda := [], started := true }

end Sys2Proof.Machine
end

