-- ==== Sys2Proof/Safety.lean ====
section
/-! DEFINITION. The terms in which claims are stated: the pieces of state, what each instruction may write
(spec/10_state.md R22, spec/20_memory.md R59), a safe step, and the invariants. -/

namespace Sys2Proof.Machine

/-- A piece of the state, as the spec names it (R20, R35), and the model's own fields. -/
inductive Loc where
  | reg (r : Reg)
  | index
  | pc
  | depth
  | slot (k : Fin 16)
  | delay
  | sound
  | drawFlag
  | cell (row : Fin 32) (col : Fin 64)
  | byte (a : Nat)
  | outcome
  | keys
  | rnd
  | samples
  | agenda
  | started
  deriving DecidableEq, Repr

/-- The piece holds in `t` what it holds in `s`. -/
def Loc.same (l : Loc) (s t : State) : Prop :=
  match l with
  | .reg r => t.getV r = s.getV r
  | .index => t.i = s.i
  | .pc => t.pc = s.pc
  | .depth => t.sp = s.sp
  | .slot k => t.slot k = s.slot k
  | .delay => t.dt = s.dt
  | .sound => t.st = s.st
  | .drawFlag => t.drawFlag = s.drawFlag
  | .cell row col => t.cell row col = s.cell row col
  | .byte a => t.readByte a = s.readByte a
  | .outcome => t.outcome = s.outcome
  | .keys => t.keys = s.keys
  | .rnd => t.rnd = s.rnd
  | .samples => t.samples = s.samples
  | .agenda => t.agenda = s.agenda
  | .started => t.started = s.started

/-- The piece is one of those the model keeps about the host, which the host changes after a `step` (logs 4, 5). -/
def Loc.isHost (l : Loc) : Prop := l = .keys ∨ l = .rnd ∨ l = .samples ∨ l = .agenda

/-- The machine's next event is a `step`: the host has announced it with its inputs, or has announced nothing (log 5). -/
def State.stepNext (s : State) : Prop := s.agenda = [] ∨ ∃ keys rnd rest, s.agenda = .step keys rnd :: rest

/-- As many steps of the machine, one event each. -/
def steps : Nat → State → Result
  | 0, s => .next s
  | n + 1, s =>
    match step s with
    | .next t => steps n t
    | .fault f => .fault f
    | .refused r => .refused r

/-- Everything but the listed pieces is unchanged. -/
def unchangedBut (written : Loc → Prop) (s t : State) : Prop := ∀ l, ¬ written l → l.same s t

/-- The piece is a byte among the `count` bytes from `lo`. -/
def Loc.inBytes (lo count : Nat) (l : Loc) : Prop := ∃ a, l = .byte a ∧ lo ≤ a ∧ a < lo + count

/-- The pieces an instruction's body may write in the state `s` it runs in (R22, R23, R25 to R33, R59). The outcome is
the step's output and every instruction gives one; `pc` is listed where the body moves it. -/
def mayWrite (i : Instr) (s : State) (l : Loc) : Prop :=
  l = .outcome ∨
  match i with
  | .cls => (∃ row col, l = .cell row col) ∨ l = .drawFlag
  | .ret => l = .pc ∨ l = .depth
  | .jp _ | .jpV0 _ | .seImm _ _ | .sneImm _ _ | .seReg _ _ | .sneReg _ _ | .skp _ | .sknp _ => l = .pc
  | .call _ => l = .pc ∨ l = .depth ∨ ∃ k, l = .slot k ∧ k.val = s.sp.val
  | .ldImm x _ | .addImm x _ | .ldReg x _ | .orReg x _ | .andReg x _ | .xorReg x _ | .rnd x _ | .ldVxDT x => l = .reg x
  | .addReg x _ | .subReg x _ | .shr x _ | .subn x _ | .shl x _ => l = .reg x ∨ l = .reg vf
  | .ldI _ | .addI _ | .ldF _ => l = .index
  | .drw _ _ _ => l = .reg vf ∨ (∃ row col, l = .cell row col) ∨ l = .drawFlag
  | .ldVxK x => l = .reg x ∨ l = .pc
  | .ldDTVx _ => l = .delay
  | .ldSTVx _ => l = .sound
  | .ldB _ => l.inBytes (s.dataAddr 0) 3
  | .ldMemVx x => l.inBytes (s.dataAddr 0) (x.val + 1)
  | .ldVxMem x => ∃ k, l = .reg k ∧ k ≤ x

/-- The condition of an instruction's one execute-phase check, in the state its body runs in (R190, R197); `False` for
the instructions that always complete. -/
def failsCheck (i : Instr) (s : State) : Prop :=
  match i with
  | .ret => s.sp.val = 0
  | .call _ => s.sp.val = 16
  | .drw _ _ n => 0 < n.val ∧ 4095 < s.i.toNat + n.val - 1
  | .ldB _ => 4095 < s.i.toNat + 2
  | .ldMemVx x | .ldVxMem x => 4095 < s.i.toNat + x.val
  | .skp x | .sknp x => 15 < (s.getV x).toNat
  | .cls | .jp _ | .jpV0 _ | .seImm _ _ | .sneImm _ _ | .seReg _ _ | .sneReg _ _ | .ldImm _ _ | .addImm _ _ | .ldReg _ _
  | .orReg _ _ | .andReg _ _ | .xorReg _ _ | .addReg _ _ | .subReg _ _ | .shr _ _ | .subn _ _ | .shl _ _ | .rnd _ _
  | .ldI _ | .addI _ | .ldF _ | .ldVxDT _ | .ldDTVx _ | .ldSTVx _ | .ldVxK _ => False

/-- The last step was safe: it reported no fault (R202). -/
def State.noFault (s : State) : Prop := ∀ f, s.outcome ≠ .fault f

/-- `pc` and every slot of the call stack are within the bounds of R25: the largest target any instruction forms is
0x10FE, and a return address is an advanced `pc`, at most 4096. -/
def State.pcBounded (s : State) : Prop := s.pc.toNat ≤ 0x10FE ∧ ∀ k, (s.slot k).toNat ≤ 4096

/-- The invariant of the machine: memory in canonical form, `pc` and the return addresses bounded, the core reset. -/
def State.Inv (s : State) : Prop := Memory.wf s.mem = true ∧ s.pcBounded ∧ s.started = true

/-- The two states differ at most in stack slots above the depth, which hold no return address (R26). -/
def State.agreeOnLive (s t : State) : Prop :=
  t = { s with stack := t.stack } ∧ ∀ k : Fin 16, k.val < s.sp.val → t.slot k = s.slot k

/-- A 1-bit of the sprite `DRW Vx, Vy, n` lands on the cell (R172): row byte `r` at `I + r`, its bit `7 - c`, at
`(V[y] + r) mod 32`, `(V[x] + c) mod 64`. -/
def State.spriteDot (s : State) (x y : Reg) (n : Nat) (row : Fin 32) (col : Fin 64) : Prop :=
  ∃ r c, r < n ∧ c < 8 ∧ (s.readByte (s.i.toNat + r)).getLsbD (7 - c) = true ∧
    row.val = ((s.getV y).toNat + r) % 32 ∧ col.val = ((s.getV x).toNat + c) % 64

end Sys2Proof.Machine
end

