-- ==== Sys2Proof/Certificates/Slice0/Obligations.lean ====
section
/-! DEFINITION. What is claimed of the machine, each from the rules of the spec. Where a rule carries the spec's own mark
(a decision D<n>, general knowledge G<n>, or "derived"), the docstring names it and the statement's basis is derived. -/

open Sys2Proof Sys2Proof.Machine

/-! ### Encoding -/

/-- 30_encoding.md section 3 and 95_test_vectors.md section 2.1: words written out by hand, at least one per family, and
near misses. -/
def Obligations.SampleWordsDecode : Prop :=
  decodeWord 0x00E0 = .ok .cls ∧ decodeWord 0x00EE = .ok .ret ∧ decodeWord 0x2ABC = .ok (.call 0xABC) ∧
  decodeWord 0x3A7F = .ok (.seImm 0xA 0x7F) ∧ decodeWord 0x8AB6 = .ok (.shr 0xA 0xB) ∧
  decodeWord 0xCA7F = .ok (.rnd 0xA 0x7F) ∧ decodeWord 0xAABC = .ok (.ldI 0xABC) ∧
  decodeWord 0xFA33 = .ok (.ldB 0xA) ∧ decodeWord 0xDAB5 = .ok (.drw 0xA 0xB 5) ∧
  decodeWord 0xEAA1 = .ok (.sknp 0xA) ∧ decodeWord 0xFA0A = .ok (.ldVxK 0xA) ∧
  decodeWord 0x0000 = .error .unknownClass0 ∧ decodeWord 0x5121 = .error .unknownClass5 ∧
  decodeWord 0x812F = .error .unknownClass8 ∧ decodeWord 0xF175 = .error .unknownClassF

/-- 30_encoding.md sections 1 to 3: decoding the two bytes of any instruction, whatever follows them, gives it back with
every operand at every value. -/
def Obligations.DecodeOfEncodeIsTheInstruction : Prop :=
  ∀ (i : Instr) (rest : List Byte), decode (encodeBytes i ++ rest) = .ok (i, rest)

/-- 30_encoding.md sections 1 to 3: a word has one meaning, and no bit of it is dropped (the ignored `y` of the shifts
among them). -/
def Obligations.EncodeOfDecodeIsTheWord : Prop :=
  ∀ (w : Word) (i : Instr), decodeWord w = .ok i → encode i = w

/-- 30_encoding.md section 3, the opcode map (the spec's decision D4): the decode procedure finds an instruction of a
row exactly in the words the row's mask and match cover, and no other word is an instruction. -/
def Obligations.DecoderAgreesWithTheOpcodeMap : Prop :=
  opcodeMap.length = 34 ∧
  (∀ (w : Word) (i : Instr), decodeWord w = .ok i → rowOf i ∈ opcodeMap ∧ (rowOf i).covers w = true) ∧
  (∀ (w : Word) (row : OpcodeRow), row ∈ opcodeMap → row.covers w = true → ∃ i, decodeWord w = .ok i ∧ rowOf i = row)

/-- 30_encoding.md section 4 (the spec's decision D5): the unknown words are exactly those of the table there, class by
class. -/
def Obligations.UnknownWordsAreExactlyTheTable : Prop :=
  ∀ w : Word, (∃ e, decodeWord w = .error e) ↔
    (w.toNat / 4096 = 0x0 ∧ w ≠ 0x00E0 ∧ w ≠ 0x00EE) ∨
    (w.toNat / 4096 = 0x5 ∧ w.toNat % 16 ≠ 0) ∨
    (w.toNat / 4096 = 0x8 ∧ w.toNat % 16 ∈ [8, 9, 0xA, 0xB, 0xC, 0xD, 0xF]) ∨
    (w.toNat / 4096 = 0x9 ∧ w.toNat % 16 ≠ 0) ∨
    (w.toNat / 4096 = 0xE ∧ w.toNat % 256 ∉ [0x9E, 0xA1]) ∨
    (w.toNat / 4096 = 0xF ∧ w.toNat % 256 ∉ [0x07, 0x0A, 0x15, 0x18, 0x1E, 0x29, 0x33, 0x55, 0x65])

/-! ### The step and the other events -/

/-- 40_engine_step.md section 2 (the spec's decisions D1, D2): when the two bytes at `pc`, high byte first, are those of
an instruction, the step is that instruction run with `pc` two further. Around it the model's step takes a `step` event
off the host's agenda, if there is one, with its inputs, and gives the host its turn afterwards (logs 4, 5). -/
def Obligations.StepRunsTheDecodedInstruction : Prop :=
  ∀ (s : State) (i : Instr), s.started = true → s.pc.toNat + 1 ≤ 4095 →
    decode [s.readByte s.pc.toNat, s.readByte (s.pc.toNat + 1)] = .ok (i, []) →
    (s.agenda = [] → step s = mapNext State.hostTurn (exec i (s.setPc (s.pc + 2)))) ∧
    (∀ keys rnd rest, s.agenda = .step keys rnd :: rest →
      step s = mapNext State.hostTurn
        (exec i (((s.setAgenda rest).setInputs keys rnd).setPc (s.pc + 2))))

/-- R191: a word that is no instruction is reported, with its address and its bits, and `pc` has advanced; nothing else
of the core changes; what the model keeps about the host is the host's to change (logs 4, 5). So does every `step` event,
and every step of the machine whose next event is a `step`, with whatever inputs. The last clause is the rule's example,
the first step after reset with an empty image. -/
def Obligations.UnknownWordIsReported : Prop :=
  (∀ (s : State) (e : DecodeError), s.started = true → s.pc.toNat + 1 ≤ 4095 → decodeWord s.fetchWord = .error e →
    (∃ t, s.stepEvent = .next t ∧ t.pc = s.pc + 2 ∧ t.outcome = .fault (.unknownOpcode s.pc s.fetchWord) ∧
      unchangedBut (fun l => l = .pc ∨ l = .outcome ∨ l.isHost) s t) ∧
    (s.stepNext →
      ∃ t, step s = .next t ∧ t.pc = s.pc + 2 ∧ t.outcome = .fault (.unknownOpcode s.pc s.fetchWord) ∧
        unchangedBut (fun l => l = .pc ∨ l = .outcome ∨ l.isHost) s t)) ∧
  (∀ s : State, ∃ t u, s.handle (.reset []) = .next t ∧ t.stepEvent = .next u ∧
    u.outcome = .fault (.unknownOpcode 0x0200 0x0000) ∧ u.pc = 0x0202)

/-- 60_exceptions.md section 1 (the spec's decision D10): a fetch whose second byte lies above 4095 faults, and then
`pc` does not move: of every `step` event, and of every step of the machine whose next event is a `step`, with whatever
inputs. -/
def Obligations.FetchBeyondMemoryIsReported : Prop :=
  ∀ s : State, s.started = true → 4095 < s.pc.toNat + 1 →
    (∃ t, s.stepEvent = .next t ∧ t.pc = s.pc ∧
      t.outcome = .fault (.memoryOutOfRange s.pc .fetch s.pc.toNat (s.pc.toNat + 1)) ∧
      unchangedBut (fun l => l = .outcome ∨ l.isHost) s t) ∧
    (s.stepNext →
      ∃ t, step s = .next t ∧ t.pc = s.pc ∧
        t.outcome = .fault (.memoryOutOfRange s.pc .fetch s.pc.toNat (s.pc.toNat + 1)) ∧
        unchangedBut (fun l => l = .outcome ∨ l.isHost) s t)

/-- 40_engine_step.md section 2 and 70_reset_and_hazards.md section 5: a step always returns, in every state of a core
that has been reset, whatever the host's next event is; there is no terminal state. -/
def Obligations.EveryStepReturns : Prop :=
  ∀ s : State, s.started = true → ∃ t, step s = .next t ∧ t.started = true

/-- 70_reset_and_hazards.md section 2: before the first `reset` no event but `reset` has a meaning, and a model refuses
it; `reset` is served (log 7). -/
def Obligations.NothingButResetBeforeReset : Prop :=
  ∀ s : State, s.started = false →
    (∀ image rest, s.agenda = .reset image :: rest → ∃ t, step s = .next t ∧ t.started = true) ∧
    ((∀ image rest, s.agenda ≠ .reset image :: rest) → step s = .refused .beforeReset)

/-- 40_engine_step.md section 1 (the spec's decision D1; log 5): the machine takes the host's events in order, one a
step; after a `step` with nothing more announced, any events may follow. -/
def Obligations.AgendaIsServedInOrder : Prop :=
  ∀ (s : State) (e : HostEvent) (rest : List HostEvent), s.started = true → s.agenda = e :: rest →
    ∃ t, step s = .next t ∧ (s.setAgenda rest).handle e = .next t ∧
      (t.agenda = rest ∨ (rest = [] ∧ (∃ keys rnd, e = .step keys rnd) ∧ t.agenda = Config.freeEvents s.samples))

/-- R106: `tick` decrements both timers, each independently and to a floor of 0, and changes nothing else. -/
def Obligations.TickDecrementsBothTimers : Prop :=
  ∀ s : State, s.started = true →
    ∃ t, s.handle .tick = .next t ∧ t.dt.toNat = s.dt.toNat - 1 ∧ t.st.toNat = s.st.toNat - 1 ∧
      unchangedBut (fun l => l = .delay ∨ l = .sound) s t

/-- R107: `frame_ack` clears the draw flag, set or not, and changes nothing else. -/
def Obligations.FrameAckClearsTheDrawFlag : Prop :=
  ∀ s : State, s.started = true →
    ∃ t, s.handle .frameAck = .next t ∧ t.drawFlag = false ∧ unchangedBut (fun l => l = .drawFlag) s t

/-- R221: byte `k` of the image goes to `0x200 + k`, up to 3584 bytes, uninterpreted; the rest of the program region is
zero, all of it where the image is empty, whose first step is then `UnknownOpcode`; the first two bytes are the first
instruction, high byte first. -/
def Obligations.ResetLoadsTheImageVerbatim : Prop :=
  ∀ (s : State) (image : List Byte), image.length ≤ 4096 - 0x200 →
    ∃ t, s.handle (.reset image) = .next t ∧
      (∀ (k : Nat) (h : k < image.length), t.readByte (0x200 + k) = image[k]) ∧
      (∀ a, 0x200 + image.length ≤ a → a < 4096 → t.readByte a = 0) ∧
      (∀ h : 2 ≤ image.length, t.fetchWord = wordOfBytes (image[0]) (image[1])) ∧
      (image = [] → ∃ u, t.stepEvent = .next u ∧ u.outcome = .fault (.unknownOpcode 0x0200 0x0000))

/-- 10_state.md section 11 and 70_reset_and_hazards.md section 1 (the zeros are the spec's decision D14, the font bytes
D15): what every register, slot, cell, timer and byte outside the program region holds after `reset`, whatever held
before and whatever the image. -/
def Obligations.ResetInitialisesAllState : Prop :=
  ∀ (s : State) (image : List Byte), ∃ t, s.handle (.reset image) = .next t ∧
    t.pc = 0x200 ∧ t.i = 0 ∧ t.sp = 0 ∧ t.dt = 0 ∧ t.st = 0 ∧ t.drawFlag = false ∧
    (∀ r, t.getV r = 0) ∧ (∀ k, t.slot k = 0) ∧ (∀ row col, t.cell row col = false) ∧
    (∀ k, k < 80 → t.readByte (0x050 + k) = font.getD k 0) ∧
    (∀ a, a < 0x200 → (a < 0x050 ∨ 0x0A0 ≤ a) → t.readByte a = 0)

/-- 70_reset_and_hazards.md section 1 (the spec's decision D20): no prefix of an image that does not fit is loaded; the
core takes the state of `reset` with an empty image. -/
def Obligations.OverlongImageLoadsNothing : Prop :=
  ∀ (s : State) (image : List Byte), 3584 < image.length →
    s.handle (.reset image) = s.handle (.reset []) ∧
    ∃ t, s.handle (.reset image) = .next t ∧ ∀ a, 0x200 ≤ a → a < 4096 → t.readByte a = 0

/-- 40_engine_step.md section 5 (the spec's decision D18): coincident requests. `reset` overrides all; otherwise
`frame_ack`, `step`, `tick`. The requests are put in that order before they reach the agenda (log 18, a design choice: the
machine's step never reads `serialise`). A machine whose agenda is the ordered requests serves them so that a completed
draw in the instant of an acknowledge leaves the flag set, and a timer loaded in the instant of a tick is decremented
once. -/
def Obligations.CoincidentRequestsAreServedInOrder : Prop :=
  ∀ r : Requests,
    (∀ image, r.reset = some image → r.serialise = [.reset image]) ∧
    (r.reset = none →
      (HostEvent.frameAck ∈ r.serialise ↔ r.frameAck = true) ∧ (HostEvent.tick ∈ r.serialise ↔ r.tick = true) ∧
      (∀ k n, HostEvent.step k n ∈ r.serialise ↔ r.step = some (k, n)) ∧
      (∀ image, HostEvent.reset image ∉ r.serialise) ∧
      (∀ k n, r.step = some (k, n) →
        (r.frameAck = true → [HostEvent.frameAck, HostEvent.step k n].Sublist r.serialise) ∧
        (r.tick = true → [HostEvent.step k n, HostEvent.tick].Sublist r.serialise)) ∧
      (r.frameAck = true → r.tick = true → [HostEvent.frameAck, HostEvent.tick].Sublist r.serialise) ∧
      r.serialise.Nodup) ∧
    (∀ s : State, s.agenda = r.serialise →
      (∀ image, r.reset = some image → step s = (s.setAgenda []).handle (.reset image)) ∧
      (s.started = true → r.reset = none →
        ∃ u, steps r.serialise.length s = .next u ∧
          (r.step = none → r.frameAck = true → u.drawFlag = false) ∧
          (r.step = none → r.tick = true → u.dt.toNat = s.dt.toNat - 1 ∧ u.st.toNat = s.st.toNat - 1) ∧
          (∀ k n i, r.step = some (k, n) → s.pc.toNat + 1 ≤ 4095 → decodeWord s.fetchWord = .ok i →
            ((i = .cls ∨ ∃ x y rows, i = .drw x y rows) → u.noFault → u.drawFlag = true) ∧
            (∀ x, i = .ldDTVx x → u.dt.toNat = (s.getV x).toNat - (if r.tick then 1 else 0)) ∧
            (∀ x, i = .ldSTVx x → u.st.toNat = (s.getV x).toNat - (if r.tick then 1 else 0)))))

/-! ### Control transfer -/

/-- 41_control_flow.md section 2, `RET` (the spec's decision D8): with a return address on the stack it is taken off and
`pc` becomes it, with no check; on the empty stack `StackUnderflow` is reported (its address: log 6) and nothing moves. -/
def Obligations.RetPopsThePc : Prop :=
  ∀ s : State,
    (∀ k : Fin 16, s.sp.val = k.val + 1 →
      ∃ t, exec .ret s = .next t ∧ t.outcome = .ok ∧ t.pc = s.slot k ∧ t.sp.val = k.val ∧
        unchangedBut (fun l => l = .pc ∨ l = .depth ∨ l = .outcome) s t) ∧
    (s.sp.val = 0 →
      ∃ t, exec .ret s = .next t ∧ t.outcome = .fault (.stackUnderflow (s.pc - 2)) ∧
        unchangedBut (fun l => l = .outcome) s t)

/-- 41_control_flow.md section 2, `JP addr` (general knowledge G4): `pc` becomes the target, unchecked. -/
def Obligations.JumpSetsThePc : Prop :=
  ∀ (addr : Addr) (s : State),
    ∃ t, exec (.jp addr) s = .next t ∧ t.outcome = .ok ∧ t.pc.toNat = addr.toNat ∧
      unchangedBut (fun l => l = .pc ∨ l = .outcome) s t

/-- 41_control_flow.md section 2, `CALL addr` (the spec's decision D8): below depth 16 the advanced `pc` is pushed and
`pc` becomes the target; at depth 16 `StackOverflow` is reported (its address: log 6) and nothing moves. -/
def Obligations.CallPushesTheReturnAddress : Prop :=
  ∀ (addr : Addr) (s : State),
    (∀ k : Fin 16, s.sp.val = k.val →
      ∃ t, exec (.call addr) s = .next t ∧ t.outcome = .ok ∧ t.slot k = s.pc ∧ t.sp.val = k.val + 1 ∧
        t.pc.toNat = addr.toNat ∧
        unchangedBut (fun l => l = .pc ∨ l = .depth ∨ l = .slot k ∨ l = .outcome) s t) ∧
    (s.sp.val = 16 →
      ∃ t, exec (.call addr) s = .next t ∧ t.outcome = .fault (.stackOverflow (s.pc - 2)) ∧
        unchangedBut (fun l => l = .outcome) s t)

/-- 10_state.md section 4 and 60_exceptions.md section 1 (the fault addresses rest on log 6): a `CALL` and then a
`RET` leave `pc` at the instruction after the `CALL` and the stack pointer as before the pair; a `CALL` at depth 16 and a `RET` at depth 0 are reported, and change no slot and no depth. The `RET` runs with
`pc` advanced from the call's target. -/
def Obligations.CallThenRetRestoresThePc : Prop :=
  ∀ (addr : Addr) (s : State),
    (s.sp.val < 16 →
      ∃ t u, exec (.call addr) s = .next t ∧ exec .ret (t.setPc (t.pc + 2)) = .next u ∧ u.pc = s.pc ∧ u.sp = s.sp) ∧
    (s.sp.val = 16 →
      ∃ t, exec (.call addr) s = .next t ∧ t.outcome = .fault (.stackOverflow (s.pc - 2)) ∧
        t.stack = s.stack ∧ t.sp = s.sp) ∧
    (s.sp.val = 0 →
      ∃ t, exec .ret s = .next t ∧ t.outcome = .fault (.stackUnderflow (s.pc - 2)) ∧
        t.stack = s.stack ∧ t.sp = s.sp)

/-- 41_control_flow.md section 2, `SE` and `SNE` with a byte and with a register (opcode values: the spec's decision
D4): `pc` is two further iff the comparison holds, and no register is written. -/
def Obligations.SkipsCompareAndAdvance : Prop :=
  ∀ (x y : Reg) (imm : Byte) (s : State),
    (∃ t, exec (.seImm x imm) s = .next t ∧ t.outcome = .ok ∧
      t.pc = (if s.getV x = imm then s.pc + 2 else s.pc) ∧ unchangedBut (fun l => l = .pc ∨ l = .outcome) s t) ∧
    (∃ t, exec (.sneImm x imm) s = .next t ∧ t.outcome = .ok ∧
      t.pc = (if s.getV x ≠ imm then s.pc + 2 else s.pc) ∧ unchangedBut (fun l => l = .pc ∨ l = .outcome) s t) ∧
    (∃ t, exec (.seReg x y) s = .next t ∧ t.outcome = .ok ∧
      t.pc = (if s.getV x = s.getV y then s.pc + 2 else s.pc) ∧ unchangedBut (fun l => l = .pc ∨ l = .outcome) s t) ∧
    (∃ t, exec (.sneReg x y) s = .next t ∧ t.outcome = .ok ∧
      t.pc = (if s.getV x ≠ s.getV y then s.pc + 2 else s.pc) ∧ unchangedBut (fun l => l = .pc ∨ l = .outcome) s t)

/-- 41_control_flow.md section 2, `JP V0, addr` (the spec's decision D4): the target is the sum with `V0`, and the sum
never reaches a wrap. -/
def Obligations.JumpWithOffsetAddsV0 : Prop :=
  ∀ (addr : Addr) (s : State),
    ∃ t, exec (.jpV0 addr) s = .next t ∧ t.outcome = .ok ∧ t.pc.toNat = addr.toNat + (s.getV 0).toNat ∧
      t.pc.toNat ≤ 0x10FE ∧ unchangedBut (fun l => l = .pc ∨ l = .outcome) s t

/-- 70_reset_and_hazards.md section 5 (the spec's decision D21): a `JP` to its own address is a fixed point of `step`:
no piece of the core's state changes, only what the model keeps about the host, and the outcome `ok`. -/
def Obligations.SelfJumpIsAFixedPoint : Prop :=
  ∀ (s : State) (addr : Addr), s.started = true → s.stepNext → addr.toNat ≤ 4094 → s.pc.toNat = addr.toNat →
    s.fetchWord = encodeA 0x1 addr →
    ∃ t, step s = .next t ∧ t.outcome = .ok ∧
      unchangedBut (fun l => l = .outcome ∨ l.isHost) s t

/-! ### Loads, ALU, random -/

/-- 42_alu.md section 2 (the spec's decisions D4, D7): the load of a byte, the add of a byte with no carry recorded, the
register copy. `VF` changes only as the destination. -/
def Obligations.LoadsAndAddImmediate : Prop :=
  ∀ (x y : Reg) (imm : Byte) (s : State),
    (∃ t, exec (.ldImm x imm) s = .next t ∧ t.outcome = .ok ∧ t.getV x = imm ∧
      unchangedBut (fun l => l = .reg x ∨ l = .outcome) s t) ∧
    (∃ t, exec (.addImm x imm) s = .next t ∧ t.outcome = .ok ∧
      (t.getV x).toNat = ((s.getV x).toNat + imm.toNat) % 256 ∧
      unchangedBut (fun l => l = .reg x ∨ l = .outcome) s t) ∧
    (∃ t, exec (.ldReg x y) s = .next t ∧ t.outcome = .ok ∧ t.getV x = s.getV y ∧
      unchangedBut (fun l => l = .reg x ∨ l = .outcome) s t)

/-- 42_alu.md section 3 (the spec's decisions D4, D7): bit by bit, and `VF` is not written unless it is the
destination. -/
def Obligations.LogicIsBitwise : Prop :=
  ∀ (x y : Reg) (s : State),
    (∃ t, exec (.orReg x y) s = .next t ∧ t.outcome = .ok ∧
      (∀ k, (t.getV x).getLsbD k = ((s.getV x).getLsbD k || (s.getV y).getLsbD k)) ∧
      unchangedBut (fun l => l = .reg x ∨ l = .outcome) s t) ∧
    (∃ t, exec (.andReg x y) s = .next t ∧ t.outcome = .ok ∧
      (∀ k, (t.getV x).getLsbD k = ((s.getV x).getLsbD k && (s.getV y).getLsbD k)) ∧
      unchangedBut (fun l => l = .reg x ∨ l = .outcome) s t) ∧
    (∃ t, exec (.xorReg x y) s = .next t ∧ t.outcome = .ok ∧
      (∀ k, (t.getV x).getLsbD k = ((s.getV x).getLsbD k ^^ (s.getV y).getLsbD k)) ∧
      unchangedBut (fun l => l = .reg x ∨ l = .outcome) s t)

/-- 42_alu.md section 4, `ADD Vx, Vy`: the 8-bit sum and the carry, and the three cases where `VF` is an operand (the
spec's decision D6). -/
def Obligations.AddReportsTheCarry : Prop :=
  ∀ (x y : Reg) (s : State),
    ∃ t, exec (.addReg x y) s = .next t ∧ t.outcome = .ok ∧
      (x ≠ vf → y ≠ vf →
        (t.getV x).toNat = ((s.getV x).toNat + (s.getV y).toNat) % 256 ∧
        t.getV vf = if 255 < (s.getV x).toNat + (s.getV y).toNat then 1 else 0) ∧
      (x = vf → y ≠ vf → t.getV vf = s.getV y) ∧
      (x ≠ vf → y = vf → t.getV x = s.getV x ∧ t.getV vf = 0) ∧
      (x = vf → y = vf → t.getV vf = 0) ∧
      unchangedBut (fun l => l = .reg x ∨ l = .reg vf ∨ l = .outcome) s t

/-- 42_alu.md section 4, `SUB Vx, Vy`: the 8-bit difference, and `VF = 1` iff `Vx > Vy` strictly; and the cases where
`VF` is an operand (the spec's decision D6). -/
def Obligations.SubReportsStrictlyGreater : Prop :=
  ∀ (x y : Reg) (s : State),
    ∃ t, exec (.subReg x y) s = .next t ∧ t.outcome = .ok ∧
      (x ≠ vf → y ≠ vf →
        (t.getV x).toNat = (256 + (s.getV x).toNat - (s.getV y).toNat) % 256 ∧
        t.getV vf = if (s.getV y).toNat < (s.getV x).toNat then 1 else 0) ∧
      (x = vf → y ≠ vf → (t.getV vf).toNat = (256 - (s.getV y).toNat) % 256) ∧
      (x ≠ vf → y = vf →
        (t.getV x).toNat = (s.getV x).toNat - 1 ∧ t.getV vf = if 0 < (s.getV x).toNat then 1 else 0) ∧
      (x = vf → y = vf → t.getV vf = 0) ∧
      unchangedBut (fun l => l = .reg x ∨ l = .reg vf ∨ l = .outcome) s t

/-- 42_alu.md section 4, `SUBN Vx, Vy`: the reverse difference, and `VF = 1` iff `Vx < Vy` strictly; and the cases where
`VF` is an operand (the spec's decision D6). -/
def Obligations.SubnReportsStrictlyLess : Prop :=
  ∀ (x y : Reg) (s : State),
    ∃ t, exec (.subn x y) s = .next t ∧ t.outcome = .ok ∧
      (x ≠ vf → y ≠ vf →
        (t.getV x).toNat = (256 + (s.getV y).toNat - (s.getV x).toNat) % 256 ∧
        t.getV vf = if (s.getV x).toNat < (s.getV y).toNat then 1 else 0) ∧
      (x = vf → y ≠ vf → (t.getV vf).toNat = (s.getV y).toNat - 1) ∧
      (x ≠ vf → y = vf → (t.getV x).toNat = (256 - (s.getV x).toNat) % 256 ∧ t.getV vf = 0) ∧
      (x = vf → y = vf → t.getV vf = 0) ∧
      unchangedBut (fun l => l = .reg x ∨ l = .reg vf ∨ l = .outcome) s t

/-- 42_alu.md section 4, `SHR` and `SHL`: one position, logical, of `Vx` alone; `VF` gets the bit shifted out; with
`x = F` `VF` ends as 0 (the spec's decision D6). `Vy` is neither read nor written: every `y` gives the same. -/
def Obligations.ShiftsReportTheBitShiftedOut : Prop :=
  ∀ (x y : Reg) (s : State),
    (∃ t, exec (.shr x y) s = .next t ∧ t.outcome = .ok ∧
      (x ≠ vf → (t.getV x).toNat = (s.getV x).toNat / 2 ∧ (t.getV vf).toNat = (s.getV x).toNat % 2) ∧
      (x = vf → t.getV vf = 0) ∧
      unchangedBut (fun l => l = .reg x ∨ l = .reg vf ∨ l = .outcome) s t ∧ ∀ z, exec (.shr x z) s = .next t) ∧
    (∃ t, exec (.shl x y) s = .next t ∧ t.outcome = .ok ∧
      (x ≠ vf → (t.getV x).toNat = 2 * (s.getV x).toNat % 256 ∧ (t.getV vf).toNat = (s.getV x).toNat / 128) ∧
      (x = vf → t.getV vf = 0) ∧
      unchangedBut (fun l => l = .reg x ∨ l = .reg vf ∨ l = .outcome) s t ∧ ∀ z, exec (.shl x z) s = .next t)

/-- 42_alu.md section 5 (the spec's decision D13): the step's random byte, whatever it is, under the mask. -/
def Obligations.RandomIsTheInputUnderTheMask : Prop :=
  ∀ (x : Reg) (imm : Byte) (s : State),
    ∃ t, exec (.rnd x imm) s = .next t ∧ t.outcome = .ok ∧
      (∀ k, (t.getV x).getLsbD k = (s.rnd.getLsbD k && imm.getLsbD k)) ∧
      unchangedBut (fun l => l = .reg x ∨ l = .outcome) s t

/-- 10_state.md section 1: after a flag-writing instruction of class 8 or a `DRW` that completes, with `x` not F, `VF`
holds 0 or 1. -/
def Obligations.FlagRegisterHoldsZeroOrOne : Prop :=
  ∀ (i : Instr) (x y : Reg) (n : Fin 16) (s t : State),
    i ∈ [Instr.addReg x y, .subReg x y, .shr x y, .subn x y, .shl x y, .drw x y n] → x ≠ vf →
    exec i s = .next t → t.noFault → t.getV vf = 0 ∨ t.getV vf = 1

/-! ### Index register and memory -/

/-- 43_index_memory.md section 2, `LD I, addr`, `ADD I, Vx`, `LD F, Vx` (the spec's decisions D4, D7, D17): none touches
memory, none faults whatever the result, none writes `VF`; the whole byte selects the glyph. -/
def Obligations.IndexRegisterIsSet : Prop :=
  ∀ (addr : Addr) (x : Reg) (s : State),
    (∃ t, exec (.ldI addr) s = .next t ∧ t.outcome = .ok ∧ t.i.toNat = addr.toNat ∧
      unchangedBut (fun l => l = .index ∨ l = .outcome) s t) ∧
    (∃ t, exec (.addI x) s = .next t ∧ t.outcome = .ok ∧ t.i.toNat = (s.i.toNat + (s.getV x).toNat) % 65536 ∧
      unchangedBut (fun l => l = .index ∨ l = .outcome) s t) ∧
    (∃ t, exec (.ldF x) s = .next t ∧ t.outcome = .ok ∧ t.i.toNat = 0x50 + 5 * (s.getV x).toNat ∧
      unchangedBut (fun l => l = .index ∨ l = .outcome) s t)

/-- 43_index_memory.md section 2, `LD B, Vx` (range: the spec's decision D10): the three decimal digits at `I`, `I+1`,
`I+2`, and every other byte and piece of state as before. -/
def Obligations.BcdStoresTheDigits : Prop :=
  ∀ (x : Reg) (s : State), Memory.wf s.mem = true → s.dataAddr 2 ≤ 4095 →
    ∃ t, exec (.ldB x) s = .next t ∧ t.outcome = .ok ∧
      (t.readByte (s.dataAddr 0)).toNat = (s.getV x).toNat / 100 ∧
      (t.readByte (s.dataAddr 1)).toNat = (s.getV x).toNat / 10 % 10 ∧
      (t.readByte (s.dataAddr 2)).toNat = (s.getV x).toNat % 10 ∧
      unchangedBut (fun l => l.inBytes (s.dataAddr 0) 3 ∨ l = .outcome) s t

/-- 43_index_memory.md section 2, `LD [I], Vx` (the spec's decisions D10, D17): `V0` to `Vx` at `I` upward, inclusive,
in any region of memory, and nothing else, `I` among it. -/
def Obligations.BlockStoreCopiesTheRegisters : Prop :=
  ∀ (x : Reg) (s : State), Memory.wf s.mem = true → s.dataAddr x.val ≤ 4095 →
    ∃ t, exec (.ldMemVx x) s = .next t ∧ t.outcome = .ok ∧
      (∀ k : Reg, k ≤ x → t.readByte (s.dataAddr k.val) = s.getV k) ∧
      unchangedBut (fun l => l.inBytes (s.dataAddr 0) (x.val + 1) ∨ l = .outcome) s t

/-- 43_index_memory.md section 2, `LD Vx, [I]` (the spec's decisions D10, D17): `V0` to `Vx` from `I` upward, inclusive;
registers above `x`, `I` and memory as before. -/
def Obligations.BlockLoadCopiesTheBytes : Prop :=
  ∀ (x : Reg) (s : State), s.dataAddr x.val ≤ 4095 →
    ∃ t, exec (.ldVxMem x) s = .next t ∧ t.outcome = .ok ∧
      (∀ k : Reg, k ≤ x → t.getV k = s.readByte (s.dataAddr k.val)) ∧
      unchangedBut (fun l => (∃ k : Reg, l = .reg k ∧ k ≤ x) ∨ l = .outcome) s t

/-- 20_memory.md section 1 and 60_exceptions.md section 1 (the spec's decision D10): an instruction whose range passes
4095 reports `MemoryOutOfRange` with the range's ends (and the address of log 6) and transfers nothing, even what was in
range. -/
def Obligations.RangePastMemoryTransfersNothing : Prop :=
  ∀ (x y : Reg) (n : Fin 16) (s : State),
    (4095 < s.i.toNat + 2 →
      ∃ t, exec (.ldB x) s = .next t ∧
        t.outcome = .fault (.memoryOutOfRange (s.pc - 2) .write s.i.toNat (s.i.toNat + 2)) ∧
        unchangedBut (fun l => l = .outcome) s t) ∧
    (4095 < s.i.toNat + x.val →
      (∃ t, exec (.ldMemVx x) s = .next t ∧
        t.outcome = .fault (.memoryOutOfRange (s.pc - 2) .write s.i.toNat (s.i.toNat + x.val)) ∧
        unchangedBut (fun l => l = .outcome) s t) ∧
      (∃ t, exec (.ldVxMem x) s = .next t ∧
        t.outcome = .fault (.memoryOutOfRange (s.pc - 2) .read s.i.toNat (s.i.toNat + x.val)) ∧
        unchangedBut (fun l => l = .outcome) s t)) ∧
    (0 < n.val → 4095 < s.i.toNat + n.val - 1 →
      ∃ t, exec (.drw x y n) s = .next t ∧
        t.outcome = .fault (.memoryOutOfRange (s.pc - 2) .read s.i.toNat (s.i.toNat + n.val - 1)) ∧
        unchangedBut (fun l => l = .outcome) s t)

/-- 20_memory.md section 5, self-modifying code: every word that a block store or `LD B, Vx` puts at an address is the
word the next fetch from there reads, whatever region it lies in. -/
def Obligations.StoreIsSeenByTheNextFetch : Prop :=
  ∀ (x : Reg) (s t : State), Memory.wf s.mem = true →
    (s.dataAddr x.val ≤ 4095 → exec (.ldMemVx x) s = .next t →
      ∀ j k : Reg, k.val = j.val + 1 → k ≤ x →
        (t.setPc (s.i + BitVec.ofNat 16 j.val)).fetchWord = wordOfBytes (s.getV j) (s.getV k)) ∧
    (s.dataAddr 2 ≤ 4095 → exec (.ldB x) s = .next t →
      (t.setPc s.i).fetchWord =
        wordOfBytes (BitVec.ofNat 8 ((s.getV x).toNat / 100)) (BitVec.ofNat 8 ((s.getV x).toNat / 10 % 10)) ∧
      (t.setPc (s.i + 1)).fetchWord =
        wordOfBytes (BitVec.ofNat 8 ((s.getV x).toNat / 10 % 10)) (BitVec.ofNat 8 ((s.getV x).toNat % 10)))

/-! ### Display -/

/-- R171: every cell 0 and the draw flag set, also where nothing was lit; `VF` and everything else as before. The word
is 00E0, and the step that runs it leaves `pc` two further. -/
def Obligations.ClsClearsEveryCell : Prop :=
  decodeWord 0x00E0 = .ok .cls ∧
  ∀ s : State, ∃ t, exec .cls s = .next t ∧ t.outcome = .ok ∧ (∀ c : Fin 2048, t.cellAt c = false) ∧
    t.drawFlag = true ∧
    unchangedBut (fun l => (∃ row col, l = .cell row col) ∨ l = .drawFlag ∨ l = .outcome) s t ∧
    (s.started = true → s.stepNext → s.pc.toNat + 1 ≤ 4095 → s.fetchWord = 0x00E0 →
      ∃ u, step s = .next u ∧ (∀ c : Fin 2048, u.cellAt c = false) ∧ u.drawFlag = true ∧ u.pc = s.pc + 2 ∧
        u.outcome = .ok)

/-- 44_display.md section 2, `DRW` with neither coordinate in `VF` (range: the spec's decision D10): a cell is toggled
iff a 1-bit of the sprite lands on it, with wrap-around at both edges; `VF` is 1 iff such a cell was lit; the draw flag
is set always. A sprite of no rows changes no cell, makes no bounds check and clears `VF`. -/
def Obligations.DrawXorsTheSprite : Prop :=
  ∀ (x y : Reg) (n : Fin 16) (s : State), x ≠ vf → y ≠ vf → (n.val = 0 ∨ s.dataAddr (n.val - 1) ≤ 4095) →
    ∃ t, exec (.drw x y n) s = .next t ∧ t.outcome = .ok ∧ t.drawFlag = true ∧
      (∀ row col, s.spriteDot x y n.val row col → t.cell row col = !s.cell row col) ∧
      (∀ row col, ¬ s.spriteDot x y n.val row col → t.cell row col = s.cell row col) ∧
      ((∃ row col, s.spriteDot x y n.val row col ∧ s.cell row col = true) → t.getV vf = 1) ∧
      ((¬ ∃ row col, s.spriteDot x y n.val row col ∧ s.cell row col = true) → t.getV vf = 0) ∧
      unchangedBut (fun l => l = .reg vf ∨ (∃ row col, l = .cell row col) ∨ l = .drawFlag ∨ l = .outcome) s t

/-- 44_display.md section 2, the pseudocode of `DRW` in its normative order, for every `x` and `y`, `VF` among them: the
coordinates are read again at each cell (the spec's decision D6). -/
def Obligations.DrawRunsRowByRowBitByBit : Prop :=
  ∀ (x y : Reg) (n : Fin 16) (s : State), (n.val = 0 ∨ s.dataAddr (n.val - 1) ≤ 4095) →
    exec (.drw x y n) s = .next
      ((((List.range n.val).foldl (fun above row =>
          (List.range 8).foldl (fun t col =>
            if (s.readByte (s.i.toNat + row)).getLsbD (7 - col) = true then
              (if t.cell (Fin.ofNat 32 ((t.getV y).toNat + row)) (Fin.ofNat 64 ((t.getV x).toNat + col)) = true
                then t.setV vf 1 else t).flipCell
                (Fin.ofNat 32 ((t.getV y).toNat + row)) (Fin.ofNat 64 ((t.getV x).toNat + col))
            else t) above) (s.setV vf 0)).setDrawFlag true).setOutcome .ok)

/-- 44_display.md section 3 (a), with neither coordinate in `VF` (with one there the first draw may move the second): the
same sprite drawn twice at the same place restores every cell; the second draw reports a collision iff a 1-bit lands on a
cell that was dark before the first. -/
def Obligations.DrawingTwiceRestoresTheDisplay : Prop :=
  ∀ (x y : Reg) (n : Fin 16) (s : State), x ≠ vf → y ≠ vf → (n.val = 0 ∨ s.dataAddr (n.val - 1) ≤ 4095) →
    ∃ t u, exec (.drw x y n) s = .next t ∧ exec (.drw x y n) t = .next u ∧
      (∀ row col, u.cell row col = s.cell row col) ∧
      (u.getV vf = 1 ↔ ∃ row col, s.spriteDot x y n.val row col ∧ s.cell row col = false)

/-- R33: the draw flag is set by every `CLS` and by every `DRW` that completes (one that reports a fault changes nothing),
changed by no other instruction, cleared by `frame_ack`, by no step, and read by no instruction. -/
def Obligations.DrawFlagIsSetByDrawsAndClearedByTheHost : Prop :=
  (∀ (i : Instr) (s t : State), exec i s = .next t →
    ((i = .cls ∨ ∃ x y n, i = .drw x y n) → t.noFault → t.drawFlag = true) ∧
    (i ≠ .cls → (∀ x y n, i ≠ .drw x y n) → t.drawFlag = s.drawFlag) ∧
    (s.drawFlag = true → t.drawFlag = true)) ∧
  (∀ s t : State, s.stepEvent = .next t → s.drawFlag = true → t.drawFlag = true) ∧
  (∀ s t : State, s.handle .frameAck = .next t → t.drawFlag = false) ∧
  (∀ (i : Instr) (s : State) (b : Bool),
    mapNext (fun t => t.setDrawFlag false) (exec i (s.setDrawFlag b)) =
      mapNext (fun t => t.setDrawFlag false) (exec i s))

/-- R32: there are 2048 cells, and cell `c = row*64 + col` is the cell at `row` and `col`; only `CLS` and `DRW` write a
cell, and only `DRW` reads one. -/
def Obligations.CellsAreNumberedByRowAndColumn : Prop :=
  (∀ (s : State) (row : Fin 32) (col : Fin 64) (c : Fin 2048), c.val = row.val * 64 + col.val →
    s.cellAt c = s.cell row col) ∧
  (∀ (i : Instr) (s t : State), exec i s = .next t → i ≠ .cls → (∀ x y n, i ≠ .drw x y n) →
    ∀ c : Fin 2048, t.cellAt c = s.cellAt c) ∧
  (∀ (i : Instr) (s : State) (d d' : Display), (∀ x y n, i ≠ .drw x y n) →
    mapNext (fun t => t.setDisp d') (exec i (s.setDisp d)) = mapNext (fun t => t.setDisp d') (exec i s))

/-! ### Timers and keyboard -/

/-- 45_timers_keyboard.md section 2 (the spec's decision D4): the timers are copied, and the step does not decrement
them. -/
def Obligations.TimersAreLoadedAndRead : Prop :=
  ∀ (x : Reg) (s : State),
    (∃ t, exec (.ldVxDT x) s = .next t ∧ t.outcome = .ok ∧ t.getV x = s.dt ∧
      unchangedBut (fun l => l = .reg x ∨ l = .outcome) s t) ∧
    (∃ t, exec (.ldDTVx x) s = .next t ∧ t.outcome = .ok ∧ t.dt = s.getV x ∧
      unchangedBut (fun l => l = .delay ∨ l = .outcome) s t) ∧
    (∃ t, exec (.ldSTVx x) s = .next t ∧ t.outcome = .ok ∧ t.st = s.getV x ∧
      unchangedBut (fun l => l = .sound ∨ l = .outcome) s t)

/-- R30: no step decrements a timer: whatever the step runs, a timer it does not load keeps its value; and a timer at 0
stays at 0 under `tick`. -/
def Obligations.NoStepDecrementsATimer : Prop :=
  (∀ s t : State, s.stepEvent = .next t →
    (t.dt = s.dt ∨ ∃ x, decodeWord s.fetchWord = .ok (.ldDTVx x) ∧ t.dt = s.getV x) ∧
    (t.st = s.st ∨ ∃ x, decodeWord s.fetchWord = .ok (.ldSTVx x) ∧ t.st = s.getV x)) ∧
  (∀ s t : State, s.handle .tick = .next t →
    (s.dt = 0 → t.dt = 0) ∧ (s.st = 0 → t.st = 0))

/-- 45_timers_keyboard.md section 3, `SKP` and `SKNP` (the spec's decision D11): for a key number 0 to 15 `pc` is two
further iff the key is down, or is up; for a greater one `KeyIndexOutOfRange` is reported (its address: log 6) and there is no
skip. -/
def Obligations.KeySkipsTestTheKeyVector : Prop :=
  ∀ (x : Reg) (s : State),
    (∀ k : Nat, k ≤ 15 → (s.getV x).toNat = k →
      (∃ t, exec (.skp x) s = .next t ∧ t.outcome = .ok ∧
        t.pc = (if s.keys.getLsbD k = true then s.pc + 2 else s.pc) ∧
        unchangedBut (fun l => l = .pc ∨ l = .outcome) s t) ∧
      (∃ t, exec (.sknp x) s = .next t ∧ t.outcome = .ok ∧
        t.pc = (if s.keys.getLsbD k = false then s.pc + 2 else s.pc) ∧
        unchangedBut (fun l => l = .pc ∨ l = .outcome) s t)) ∧
    (15 < (s.getV x).toNat →
      (∃ t, exec (.skp x) s = .next t ∧ t.outcome = .fault (.keyIndexOutOfRange (s.pc - 2) (s.getV x)) ∧
        unchangedBut (fun l => l = .outcome) s t) ∧
      (∃ t, exec (.sknp x) s = .next t ∧ t.outcome = .fault (.keyIndexOutOfRange (s.pc - 2) (s.getV x)) ∧
        unchangedBut (fun l => l = .outcome) s t))

/-- 45_timers_keyboard.md section 3, `LD Vx, K` (the spec's decision D12): with a key down the least one is stored; with
none `pc` goes back to this instruction and the outcome is `waiting`. -/
def Obligations.KeyWaitStoresTheLeastKeyOrWaits : Prop :=
  ∀ (x : Reg) (s : State),
    (s.keys ≠ 0 →
      ∃ t, exec (.ldVxK x) s = .next t ∧ t.outcome = .ok ∧ (t.getV x).toNat ≤ 15 ∧
        s.keys.getLsbD (t.getV x).toNat = true ∧ (∀ j, j < (t.getV x).toNat → s.keys.getLsbD j = false) ∧
        unchangedBut (fun l => l = .reg x ∨ l = .outcome) s t) ∧
    (s.keys = 0 →
      ∃ t, exec (.ldVxK x) s = .next t ∧ t.outcome = .waiting ∧ t.pc = s.pc - 2 ∧
        unchangedBut (fun l => l = .pc ∨ l = .outcome) s t)

/-- 45_timers_keyboard.md section 3 (the spec's decision D12): while no key is down, a step at a key wait, announced
or not, leaves the core's whole state exactly as it was, `pc` included, and reports `waiting`. -/
def Obligations.WaitingStepLeavesTheState : Prop :=
  ∀ (s : State) (x : Reg), s.started = true → s.pc.toNat + 1 ≤ 4095 →
    ((s.agenda = [] ∧ s.keys = 0) ∨ ∃ rnd rest, s.agenda = .step 0 rnd :: rest) →
    s.fetchWord = encodeXI 0xF x 0x0A →
    ∃ t, step s = .next t ∧ t.outcome = .waiting ∧
      unchangedBut (fun l => l = .outcome ∨ l.isHost) s t

/-! ### The whole machine -/

/-- 10_state.md sections 1 to 9 and 20_memory.md section 4: whatever it does, an instruction changes no piece of state
but those its entry lists: no other register, flag, slot, timer, cell or byte. -/
def Obligations.NoInstructionWritesOutsideItsList : Prop :=
  ∀ (i : Instr) (s t : State), exec i s = .next t → unchangedBut (mayWrite i s) s t

/-- 60_exceptions.md sections 1 and 2 (the spec's decisions D9 to D11): an instruction reports a fault exactly where its
one check fails; the instructions with no check always complete. -/
def Obligations.FaultsExactlyWhereTheCheckFails : Prop :=
  ∀ (i : Instr) (s : State), ∃ t, exec i s = .next t ∧ (t.noFault ↔ ¬ failsCheck i s)

/-- 60_exceptions.md section 2 (the spec's decision D9): faults are precise. A step that reports a fault leaves every
piece of the core's state as it was, but for `pc`, which is two further, or for a fetch fault where it was. -/
def Obligations.FaultsArePrecise : Prop :=
  ∀ (s t : State) (f : Fault), s.stepEvent = .next t → t.outcome = .fault f →
    unchangedBut (fun l => l = .pc ∨ l = .outcome ∨ l.isHost) s t ∧
    ((∃ lo hi, f = .memoryOutOfRange s.pc .fetch lo hi) → t.pc = s.pc) ∧
    ((¬ ∃ lo hi, f = .memoryOutOfRange s.pc .fetch lo hi) → t.pc = s.pc + 2)

/-- 40_engine_step.md section 2 (the spec's decisions D1, D13): the key vector matters to `SKP`, `SKNP` and `LD Vx, K`
only, and the random byte to `RND` only. -/
def Obligations.InputsMatterOnlyToTheirInstructions : Prop :=
  ∀ (i : Instr) (s : State) (keys : Word) (rnd : Byte),
    ((∀ x, i ≠ .skp x ∧ i ≠ .sknp x ∧ i ≠ .ldVxK x) →
      exec i (s.setInputs keys s.rnd) = mapNext (fun t => t.setInputs keys s.rnd) (exec i s)) ∧
    ((∀ x imm, i ≠ .rnd x imm) →
      exec i (s.setInputs s.keys rnd) = mapNext (fun t => t.setInputs s.keys rnd) (exec i s))

/-- 10_state.md section 4: no instruction but `CALL` writes a slot, and `CALL` writes at most one; no instruction but `RET` reads a slot,
whatever the slots hold (`CALL` stores without reading), and `RET` reads at most the top one; and what a slot above the
depth holds can never be observed: two states that differ only there go on, event by event, to states that differ only
there, with the same outcomes. The last clause gives both runs the same events and inputs: the free values after a step
depend on the count of steps, which the two states share (logs 4 and 5, design choices). -/
def Obligations.StaleSlotsAreNeverObserved : Prop :=
  (∀ (i : Instr) (s t : State), exec i s = .next t → (∀ addr, i ≠ .call addr) → t.stack = s.stack) ∧
  (∀ (addr : Addr) (s t : State), exec (.call addr) s = .next t → ∀ k : Fin 16, k.val ≠ s.sp.val → t.slot k = s.slot k) ∧
  (∀ (i : Instr) (s : State) (slots : Vector Word 16), i ≠ .ret →
    mapNext (fun t => t.setStack slots t.sp) (exec i (s.setStack slots s.sp)) =
      mapNext (fun t => t.setStack slots t.sp) (exec i s)) ∧
  (∀ (s : State) (slots : Vector Word 16), (∀ k : Fin 16, k.val + 1 = s.sp.val → slots[k] = s.slot k) →
    exec .ret (s.setStack slots s.sp) = mapNext (fun t => t.setStack slots t.sp) (exec .ret s)) ∧
  (∀ s s' t : State, s.agreeOnLive s' → step s = .next t → ∃ t', step s' = .next t' ∧ t.agreeOnLive t')

/-- 10_state.md sections 3 and 12 and the model's canonical form of memory (log 9): whatever the host's next event, a
step keeps the invariant: memory in canonical form, `pc` at most 0x10FE, every return address at most 4096, the core
reset. -/
def Obligations.StepKeepsTheInvariant : Prop :=
  ∀ s t : State, s.Inv → step s = .next t → t.Inv

/-- The invariant holds in the state right after reset. -/
def Obligations.ResetStateMeetsTheInvariant : Prop := State.reset.Inv
end

