-- ==== Sys2Proof/Laws/Decode.lean ====
section
/-! SUPPORT. The fields of an assembled word, format by format, and the bytes of a word. -/

namespace Sys2Proof

@[simp] theorem toFin_regNibble (r : Fin 16) : (regNibble r).toFin = r := rfl

/-- Close a goal about one bit position below a small bound by trying every position. -/
theorem bits_eq {w : Nat} {a b : BitVec w} (h : ∀ k, k < w → a.getLsbD k = b.getLsbD k) : a = b :=
  BitVec.eq_of_getLsbD_eq h

@[simp] theorem classOf_encodeA (cls : BitVec 4) (addr : Addr) : classOf (encodeA cls addr) = cls := by
  apply bits_eq; intro k hk; interval_cases k <;> simp [classOf, encodeA]

@[simp] theorem addrOf_encodeA (cls : BitVec 4) (addr : Addr) : addrOf (encodeA cls addr) = addr := by
  apply bits_eq; intro k hk; interval_cases k <;> simp [addrOf, encodeA]

@[simp] theorem classOf_encodeXI (cls : BitVec 4) (x : Reg) (imm : Byte) : classOf (encodeXI cls x imm) = cls := by
  apply bits_eq; intro k hk; interval_cases k <;> simp [classOf, encodeXI]

@[simp] theorem xOf_encodeXI (cls : BitVec 4) (x : Reg) (imm : Byte) : xOf (encodeXI cls x imm) = x := by
  have h : (encodeXI cls x imm).extractLsb' 8 4 = regNibble x := by
    apply bits_eq; intro k hk; interval_cases k <;> simp [encodeXI]
  rw [xOf, h, toFin_regNibble]

@[simp] theorem immOf_encodeXI (cls : BitVec 4) (x : Reg) (imm : Byte) : immOf (encodeXI cls x imm) = imm := by
  apply bits_eq; intro k hk; interval_cases k <;> simp [immOf, encodeXI]

@[simp] theorem classOf_encodeXYN (cls : BitVec 4) (x y : Reg) (n : BitVec 4) :
    classOf (encodeXYN cls x y n) = cls := by
  apply bits_eq; intro k hk; interval_cases k <;> simp [classOf, encodeXYN]

@[simp] theorem xOf_encodeXYN (cls : BitVec 4) (x y : Reg) (n : BitVec 4) : xOf (encodeXYN cls x y n) = x := by
  have h : (encodeXYN cls x y n).extractLsb' 8 4 = regNibble x := by
    apply bits_eq; intro k hk; interval_cases k <;> simp [encodeXYN]
  rw [xOf, h, toFin_regNibble]

@[simp] theorem yOf_encodeXYN (cls : BitVec 4) (x y : Reg) (n : BitVec 4) : yOf (encodeXYN cls x y n) = y := by
  have h : (encodeXYN cls x y n).extractLsb' 4 4 = regNibble y := by
    apply bits_eq; intro k hk; interval_cases k <;> simp [encodeXYN]
  rw [yOf, h, toFin_regNibble]

@[simp] theorem nOf_encodeXYN (cls : BitVec 4) (x y : Reg) (n : BitVec 4) : nOf (encodeXYN cls x y n) = n.toFin := by
  have h : (encodeXYN cls x y n).extractLsb' 0 4 = n := by
    apply bits_eq; intro k hk; interval_cases k <;> simp [encodeXYN]
  rw [nOf, h]

/-- The two bytes of a word, put together again, are the word. -/
@[simp] theorem wordOfBytes_hi_lo (w : Word) : wordOfBytes (hiByte w) (loByte w) = w := by
  apply bits_eq; intro k hk; interval_cases k <;> simp [wordOfBytes, hiByte, loByte]

@[simp] theorem hiByte_wordOfBytes (hi lo : Byte) : hiByte (wordOfBytes hi lo) = hi := by
  apply bits_eq; intro k hk; interval_cases k <;> simp [wordOfBytes, hiByte]

@[simp] theorem loByte_wordOfBytes (hi lo : Byte) : loByte (wordOfBytes hi lo) = lo := by
  apply bits_eq; intro k hk; interval_cases k <;> simp [wordOfBytes, loByte]

end Sys2Proof
end

