-- ==== Sys2Proof/Laws/State.lean ====
section
/-! SUPPORT. Beside the state: what each field and each accessor reads after each update, true by `rfl`, so that no
proof unfolds a record update. -/

namespace Sys2Proof.Machine

variable (s : State)

/-! ### `setV` -/
@[simp] theorem State.setV_i (r : Reg) (b : Byte) : (s.setV r b).i = s.i := rfl
@[simp] theorem State.setV_pc (r : Reg) (b : Byte) : (s.setV r b).pc = s.pc := rfl
@[simp] theorem State.setV_stack (r : Reg) (b : Byte) : (s.setV r b).stack = s.stack := rfl
@[simp] theorem State.setV_sp (r : Reg) (b : Byte) : (s.setV r b).sp = s.sp := rfl
@[simp] theorem State.setV_dt (r : Reg) (b : Byte) : (s.setV r b).dt = s.dt := rfl
@[simp] theorem State.setV_st (r : Reg) (b : Byte) : (s.setV r b).st = s.st := rfl
@[simp] theorem State.setV_disp (r : Reg) (b : Byte) : (s.setV r b).disp = s.disp := rfl
@[simp] theorem State.setV_drawFlag (r : Reg) (b : Byte) : (s.setV r b).drawFlag = s.drawFlag := rfl
@[simp] theorem State.setV_mem (r : Reg) (b : Byte) : (s.setV r b).mem = s.mem := rfl
@[simp] theorem State.setV_outcome (r : Reg) (b : Byte) : (s.setV r b).outcome = s.outcome := rfl
@[simp] theorem State.setV_keys (r : Reg) (b : Byte) : (s.setV r b).keys = s.keys := rfl
@[simp] theorem State.setV_rnd (r : Reg) (b : Byte) : (s.setV r b).rnd = s.rnd := rfl
@[simp] theorem State.setV_samples (r : Reg) (b : Byte) : (s.setV r b).samples = s.samples := rfl
@[simp] theorem State.setV_agenda (r : Reg) (b : Byte) : (s.setV r b).agenda = s.agenda := rfl
@[simp] theorem State.setV_started (r : Reg) (b : Byte) : (s.setV r b).started = s.started := rfl
@[simp] theorem State.setV_readByte (r : Reg) (b : Byte) (a : Nat) : (s.setV r b).readByte a = s.readByte a := rfl
@[simp] theorem State.setV_slot (r : Reg) (b : Byte) (k : Fin 16) : (s.setV r b).slot k = s.slot k := rfl
@[simp] theorem State.setV_cell (r : Reg) (b : Byte) (p : Fin 32) (c : Fin 64) : (s.setV r b).cell p c = s.cell p c := rfl
@[simp] theorem State.setV_lowestKey (r : Reg) (b : Byte) : (s.setV r b).lowestKey = s.lowestKey := rfl

/-! ### `setI` -/
@[simp] theorem State.setI_v (w : Word) : (s.setI w).v = s.v := rfl
@[simp] theorem State.setI_i (w : Word) : (s.setI w).i = w := rfl
@[simp] theorem State.setI_pc (w : Word) : (s.setI w).pc = s.pc := rfl
@[simp] theorem State.setI_stack (w : Word) : (s.setI w).stack = s.stack := rfl
@[simp] theorem State.setI_sp (w : Word) : (s.setI w).sp = s.sp := rfl
@[simp] theorem State.setI_dt (w : Word) : (s.setI w).dt = s.dt := rfl
@[simp] theorem State.setI_st (w : Word) : (s.setI w).st = s.st := rfl
@[simp] theorem State.setI_disp (w : Word) : (s.setI w).disp = s.disp := rfl
@[simp] theorem State.setI_drawFlag (w : Word) : (s.setI w).drawFlag = s.drawFlag := rfl
@[simp] theorem State.setI_mem (w : Word) : (s.setI w).mem = s.mem := rfl
@[simp] theorem State.setI_outcome (w : Word) : (s.setI w).outcome = s.outcome := rfl
@[simp] theorem State.setI_keys (w : Word) : (s.setI w).keys = s.keys := rfl
@[simp] theorem State.setI_rnd (w : Word) : (s.setI w).rnd = s.rnd := rfl
@[simp] theorem State.setI_samples (w : Word) : (s.setI w).samples = s.samples := rfl
@[simp] theorem State.setI_agenda (w : Word) : (s.setI w).agenda = s.agenda := rfl
@[simp] theorem State.setI_started (w : Word) : (s.setI w).started = s.started := rfl
@[simp] theorem State.setI_getV (w : Word) (q : Reg) : (s.setI w).getV q = s.getV q := rfl
@[simp] theorem State.setI_readByte (w : Word) (a : Nat) : (s.setI w).readByte a = s.readByte a := rfl
@[simp] theorem State.setI_slot (w : Word) (k : Fin 16) : (s.setI w).slot k = s.slot k := rfl
@[simp] theorem State.setI_cell (w : Word) (p : Fin 32) (c : Fin 64) : (s.setI w).cell p c = s.cell p c := rfl
@[simp] theorem State.setI_lowestKey (w : Word) : (s.setI w).lowestKey = s.lowestKey := rfl

/-! ### `setPc` -/
@[simp] theorem State.setPc_v (w : Word) : (s.setPc w).v = s.v := rfl
@[simp] theorem State.setPc_i (w : Word) : (s.setPc w).i = s.i := rfl
@[simp] theorem State.setPc_pc (w : Word) : (s.setPc w).pc = w := rfl
@[simp] theorem State.setPc_stack (w : Word) : (s.setPc w).stack = s.stack := rfl
@[simp] theorem State.setPc_sp (w : Word) : (s.setPc w).sp = s.sp := rfl
@[simp] theorem State.setPc_dt (w : Word) : (s.setPc w).dt = s.dt := rfl
@[simp] theorem State.setPc_st (w : Word) : (s.setPc w).st = s.st := rfl
@[simp] theorem State.setPc_disp (w : Word) : (s.setPc w).disp = s.disp := rfl
@[simp] theorem State.setPc_drawFlag (w : Word) : (s.setPc w).drawFlag = s.drawFlag := rfl
@[simp] theorem State.setPc_mem (w : Word) : (s.setPc w).mem = s.mem := rfl
@[simp] theorem State.setPc_outcome (w : Word) : (s.setPc w).outcome = s.outcome := rfl
@[simp] theorem State.setPc_keys (w : Word) : (s.setPc w).keys = s.keys := rfl
@[simp] theorem State.setPc_rnd (w : Word) : (s.setPc w).rnd = s.rnd := rfl
@[simp] theorem State.setPc_samples (w : Word) : (s.setPc w).samples = s.samples := rfl
@[simp] theorem State.setPc_agenda (w : Word) : (s.setPc w).agenda = s.agenda := rfl
@[simp] theorem State.setPc_started (w : Word) : (s.setPc w).started = s.started := rfl
@[simp] theorem State.setPc_getV (w : Word) (q : Reg) : (s.setPc w).getV q = s.getV q := rfl
@[simp] theorem State.setPc_readByte (w : Word) (a : Nat) : (s.setPc w).readByte a = s.readByte a := rfl
@[simp] theorem State.setPc_slot (w : Word) (k : Fin 16) : (s.setPc w).slot k = s.slot k := rfl
@[simp] theorem State.setPc_cell (w : Word) (p : Fin 32) (c : Fin 64) : (s.setPc w).cell p c = s.cell p c := rfl
@[simp] theorem State.setPc_lowestKey (w : Word) : (s.setPc w).lowestKey = s.lowestKey := rfl

/-! ### `setDT` -/
@[simp] theorem State.setDT_v (b : Byte) : (s.setDT b).v = s.v := rfl
@[simp] theorem State.setDT_i (b : Byte) : (s.setDT b).i = s.i := rfl
@[simp] theorem State.setDT_pc (b : Byte) : (s.setDT b).pc = s.pc := rfl
@[simp] theorem State.setDT_stack (b : Byte) : (s.setDT b).stack = s.stack := rfl
@[simp] theorem State.setDT_sp (b : Byte) : (s.setDT b).sp = s.sp := rfl
@[simp] theorem State.setDT_dt (b : Byte) : (s.setDT b).dt = b := rfl
@[simp] theorem State.setDT_st (b : Byte) : (s.setDT b).st = s.st := rfl
@[simp] theorem State.setDT_disp (b : Byte) : (s.setDT b).disp = s.disp := rfl
@[simp] theorem State.setDT_drawFlag (b : Byte) : (s.setDT b).drawFlag = s.drawFlag := rfl
@[simp] theorem State.setDT_mem (b : Byte) : (s.setDT b).mem = s.mem := rfl
@[simp] theorem State.setDT_outcome (b : Byte) : (s.setDT b).outcome = s.outcome := rfl
@[simp] theorem State.setDT_keys (b : Byte) : (s.setDT b).keys = s.keys := rfl
@[simp] theorem State.setDT_rnd (b : Byte) : (s.setDT b).rnd = s.rnd := rfl
@[simp] theorem State.setDT_samples (b : Byte) : (s.setDT b).samples = s.samples := rfl
@[simp] theorem State.setDT_agenda (b : Byte) : (s.setDT b).agenda = s.agenda := rfl
@[simp] theorem State.setDT_started (b : Byte) : (s.setDT b).started = s.started := rfl
@[simp] theorem State.setDT_getV (b : Byte) (q : Reg) : (s.setDT b).getV q = s.getV q := rfl
@[simp] theorem State.setDT_readByte (b : Byte) (a : Nat) : (s.setDT b).readByte a = s.readByte a := rfl
@[simp] theorem State.setDT_slot (b : Byte) (k : Fin 16) : (s.setDT b).slot k = s.slot k := rfl
@[simp] theorem State.setDT_cell (b : Byte) (p : Fin 32) (c : Fin 64) : (s.setDT b).cell p c = s.cell p c := rfl
@[simp] theorem State.setDT_lowestKey (b : Byte) : (s.setDT b).lowestKey = s.lowestKey := rfl

/-! ### `setST` -/
@[simp] theorem State.setST_v (b : Byte) : (s.setST b).v = s.v := rfl
@[simp] theorem State.setST_i (b : Byte) : (s.setST b).i = s.i := rfl
@[simp] theorem State.setST_pc (b : Byte) : (s.setST b).pc = s.pc := rfl
@[simp] theorem State.setST_stack (b : Byte) : (s.setST b).stack = s.stack := rfl
@[simp] theorem State.setST_sp (b : Byte) : (s.setST b).sp = s.sp := rfl
@[simp] theorem State.setST_dt (b : Byte) : (s.setST b).dt = s.dt := rfl
@[simp] theorem State.setST_st (b : Byte) : (s.setST b).st = b := rfl
@[simp] theorem State.setST_disp (b : Byte) : (s.setST b).disp = s.disp := rfl
@[simp] theorem State.setST_drawFlag (b : Byte) : (s.setST b).drawFlag = s.drawFlag := rfl
@[simp] theorem State.setST_mem (b : Byte) : (s.setST b).mem = s.mem := rfl
@[simp] theorem State.setST_outcome (b : Byte) : (s.setST b).outcome = s.outcome := rfl
@[simp] theorem State.setST_keys (b : Byte) : (s.setST b).keys = s.keys := rfl
@[simp] theorem State.setST_rnd (b : Byte) : (s.setST b).rnd = s.rnd := rfl
@[simp] theorem State.setST_samples (b : Byte) : (s.setST b).samples = s.samples := rfl
@[simp] theorem State.setST_agenda (b : Byte) : (s.setST b).agenda = s.agenda := rfl
@[simp] theorem State.setST_started (b : Byte) : (s.setST b).started = s.started := rfl
@[simp] theorem State.setST_getV (b : Byte) (q : Reg) : (s.setST b).getV q = s.getV q := rfl
@[simp] theorem State.setST_readByte (b : Byte) (a : Nat) : (s.setST b).readByte a = s.readByte a := rfl
@[simp] theorem State.setST_slot (b : Byte) (k : Fin 16) : (s.setST b).slot k = s.slot k := rfl
@[simp] theorem State.setST_cell (b : Byte) (p : Fin 32) (c : Fin 64) : (s.setST b).cell p c = s.cell p c := rfl
@[simp] theorem State.setST_lowestKey (b : Byte) : (s.setST b).lowestKey = s.lowestKey := rfl

/-! ### `setDrawFlag` -/
@[simp] theorem State.setDrawFlag_v (b : Bool) : (s.setDrawFlag b).v = s.v := rfl
@[simp] theorem State.setDrawFlag_i (b : Bool) : (s.setDrawFlag b).i = s.i := rfl
@[simp] theorem State.setDrawFlag_pc (b : Bool) : (s.setDrawFlag b).pc = s.pc := rfl
@[simp] theorem State.setDrawFlag_stack (b : Bool) : (s.setDrawFlag b).stack = s.stack := rfl
@[simp] theorem State.setDrawFlag_sp (b : Bool) : (s.setDrawFlag b).sp = s.sp := rfl
@[simp] theorem State.setDrawFlag_dt (b : Bool) : (s.setDrawFlag b).dt = s.dt := rfl
@[simp] theorem State.setDrawFlag_st (b : Bool) : (s.setDrawFlag b).st = s.st := rfl
@[simp] theorem State.setDrawFlag_disp (b : Bool) : (s.setDrawFlag b).disp = s.disp := rfl
@[simp] theorem State.setDrawFlag_drawFlag (b : Bool) : (s.setDrawFlag b).drawFlag = b := rfl
@[simp] theorem State.setDrawFlag_mem (b : Bool) : (s.setDrawFlag b).mem = s.mem := rfl
@[simp] theorem State.setDrawFlag_outcome (b : Bool) : (s.setDrawFlag b).outcome = s.outcome := rfl
@[simp] theorem State.setDrawFlag_keys (b : Bool) : (s.setDrawFlag b).keys = s.keys := rfl
@[simp] theorem State.setDrawFlag_rnd (b : Bool) : (s.setDrawFlag b).rnd = s.rnd := rfl
@[simp] theorem State.setDrawFlag_samples (b : Bool) : (s.setDrawFlag b).samples = s.samples := rfl
@[simp] theorem State.setDrawFlag_agenda (b : Bool) : (s.setDrawFlag b).agenda = s.agenda := rfl
@[simp] theorem State.setDrawFlag_started (b : Bool) : (s.setDrawFlag b).started = s.started := rfl
@[simp] theorem State.setDrawFlag_getV (b : Bool) (q : Reg) : (s.setDrawFlag b).getV q = s.getV q := rfl
@[simp] theorem State.setDrawFlag_readByte (b : Bool) (a : Nat) : (s.setDrawFlag b).readByte a = s.readByte a := rfl
@[simp] theorem State.setDrawFlag_slot (b : Bool) (k : Fin 16) : (s.setDrawFlag b).slot k = s.slot k := rfl
@[simp] theorem State.setDrawFlag_cell (b : Bool) (p : Fin 32) (c : Fin 64) : (s.setDrawFlag b).cell p c = s.cell p c := rfl
@[simp] theorem State.setDrawFlag_lowestKey (b : Bool) : (s.setDrawFlag b).lowestKey = s.lowestKey := rfl

/-! ### `setMem` -/
@[simp] theorem State.setMem_v (m : Memory) : (s.setMem m).v = s.v := rfl
@[simp] theorem State.setMem_i (m : Memory) : (s.setMem m).i = s.i := rfl
@[simp] theorem State.setMem_pc (m : Memory) : (s.setMem m).pc = s.pc := rfl
@[simp] theorem State.setMem_stack (m : Memory) : (s.setMem m).stack = s.stack := rfl
@[simp] theorem State.setMem_sp (m : Memory) : (s.setMem m).sp = s.sp := rfl
@[simp] theorem State.setMem_dt (m : Memory) : (s.setMem m).dt = s.dt := rfl
@[simp] theorem State.setMem_st (m : Memory) : (s.setMem m).st = s.st := rfl
@[simp] theorem State.setMem_disp (m : Memory) : (s.setMem m).disp = s.disp := rfl
@[simp] theorem State.setMem_drawFlag (m : Memory) : (s.setMem m).drawFlag = s.drawFlag := rfl
@[simp] theorem State.setMem_mem (m : Memory) : (s.setMem m).mem = m := rfl
@[simp] theorem State.setMem_outcome (m : Memory) : (s.setMem m).outcome = s.outcome := rfl
@[simp] theorem State.setMem_keys (m : Memory) : (s.setMem m).keys = s.keys := rfl
@[simp] theorem State.setMem_rnd (m : Memory) : (s.setMem m).rnd = s.rnd := rfl
@[simp] theorem State.setMem_samples (m : Memory) : (s.setMem m).samples = s.samples := rfl
@[simp] theorem State.setMem_agenda (m : Memory) : (s.setMem m).agenda = s.agenda := rfl
@[simp] theorem State.setMem_started (m : Memory) : (s.setMem m).started = s.started := rfl
@[simp] theorem State.setMem_getV (m : Memory) (q : Reg) : (s.setMem m).getV q = s.getV q := rfl
@[simp] theorem State.setMem_slot (m : Memory) (k : Fin 16) : (s.setMem m).slot k = s.slot k := rfl
@[simp] theorem State.setMem_cell (m : Memory) (p : Fin 32) (c : Fin 64) : (s.setMem m).cell p c = s.cell p c := rfl
@[simp] theorem State.setMem_lowestKey (m : Memory) : (s.setMem m).lowestKey = s.lowestKey := rfl

/-! ### `setDisp` -/
@[simp] theorem State.setDisp_v (d : Display) : (s.setDisp d).v = s.v := rfl
@[simp] theorem State.setDisp_i (d : Display) : (s.setDisp d).i = s.i := rfl
@[simp] theorem State.setDisp_pc (d : Display) : (s.setDisp d).pc = s.pc := rfl
@[simp] theorem State.setDisp_stack (d : Display) : (s.setDisp d).stack = s.stack := rfl
@[simp] theorem State.setDisp_sp (d : Display) : (s.setDisp d).sp = s.sp := rfl
@[simp] theorem State.setDisp_dt (d : Display) : (s.setDisp d).dt = s.dt := rfl
@[simp] theorem State.setDisp_st (d : Display) : (s.setDisp d).st = s.st := rfl
@[simp] theorem State.setDisp_disp (d : Display) : (s.setDisp d).disp = d := rfl
@[simp] theorem State.setDisp_drawFlag (d : Display) : (s.setDisp d).drawFlag = s.drawFlag := rfl
@[simp] theorem State.setDisp_mem (d : Display) : (s.setDisp d).mem = s.mem := rfl
@[simp] theorem State.setDisp_outcome (d : Display) : (s.setDisp d).outcome = s.outcome := rfl
@[simp] theorem State.setDisp_keys (d : Display) : (s.setDisp d).keys = s.keys := rfl
@[simp] theorem State.setDisp_rnd (d : Display) : (s.setDisp d).rnd = s.rnd := rfl
@[simp] theorem State.setDisp_samples (d : Display) : (s.setDisp d).samples = s.samples := rfl
@[simp] theorem State.setDisp_agenda (d : Display) : (s.setDisp d).agenda = s.agenda := rfl
@[simp] theorem State.setDisp_started (d : Display) : (s.setDisp d).started = s.started := rfl
@[simp] theorem State.setDisp_getV (d : Display) (q : Reg) : (s.setDisp d).getV q = s.getV q := rfl
@[simp] theorem State.setDisp_readByte (d : Display) (a : Nat) : (s.setDisp d).readByte a = s.readByte a := rfl
@[simp] theorem State.setDisp_slot (d : Display) (k : Fin 16) : (s.setDisp d).slot k = s.slot k := rfl
@[simp] theorem State.setDisp_lowestKey (d : Display) : (s.setDisp d).lowestKey = s.lowestKey := rfl

/-! ### `setStack` -/
@[simp] theorem State.setStack_v (slots : Vector Word 16) (depth : Fin 17) : (s.setStack slots depth).v = s.v := rfl
@[simp] theorem State.setStack_i (slots : Vector Word 16) (depth : Fin 17) : (s.setStack slots depth).i = s.i := rfl
@[simp] theorem State.setStack_pc (slots : Vector Word 16) (depth : Fin 17) : (s.setStack slots depth).pc = s.pc := rfl
@[simp] theorem State.setStack_stack (slots : Vector Word 16) (depth : Fin 17) : (s.setStack slots depth).stack = slots := rfl
@[simp] theorem State.setStack_sp (slots : Vector Word 16) (depth : Fin 17) : (s.setStack slots depth).sp = depth := rfl
@[simp] theorem State.setStack_dt (slots : Vector Word 16) (depth : Fin 17) : (s.setStack slots depth).dt = s.dt := rfl
@[simp] theorem State.setStack_st (slots : Vector Word 16) (depth : Fin 17) : (s.setStack slots depth).st = s.st := rfl
@[simp] theorem State.setStack_disp (slots : Vector Word 16) (depth : Fin 17) : (s.setStack slots depth).disp = s.disp := rfl
@[simp] theorem State.setStack_drawFlag (slots : Vector Word 16) (depth : Fin 17) : (s.setStack slots depth).drawFlag = s.drawFlag := rfl
@[simp] theorem State.setStack_mem (slots : Vector Word 16) (depth : Fin 17) : (s.setStack slots depth).mem = s.mem := rfl
@[simp] theorem State.setStack_outcome (slots : Vector Word 16) (depth : Fin 17) : (s.setStack slots depth).outcome = s.outcome := rfl
@[simp] theorem State.setStack_keys (slots : Vector Word 16) (depth : Fin 17) : (s.setStack slots depth).keys = s.keys := rfl
@[simp] theorem State.setStack_rnd (slots : Vector Word 16) (depth : Fin 17) : (s.setStack slots depth).rnd = s.rnd := rfl
@[simp] theorem State.setStack_samples (slots : Vector Word 16) (depth : Fin 17) : (s.setStack slots depth).samples = s.samples := rfl
@[simp] theorem State.setStack_agenda (slots : Vector Word 16) (depth : Fin 17) : (s.setStack slots depth).agenda = s.agenda := rfl
@[simp] theorem State.setStack_started (slots : Vector Word 16) (depth : Fin 17) : (s.setStack slots depth).started = s.started := rfl
@[simp] theorem State.setStack_getV (slots : Vector Word 16) (depth : Fin 17) (q : Reg) : (s.setStack slots depth).getV q = s.getV q := rfl
@[simp] theorem State.setStack_readByte (slots : Vector Word 16) (depth : Fin 17) (a : Nat) : (s.setStack slots depth).readByte a = s.readByte a := rfl
@[simp] theorem State.setStack_cell (slots : Vector Word 16) (depth : Fin 17) (p : Fin 32) (c : Fin 64) : (s.setStack slots depth).cell p c = s.cell p c := rfl
@[simp] theorem State.setStack_lowestKey (slots : Vector Word 16) (depth : Fin 17) : (s.setStack slots depth).lowestKey = s.lowestKey := rfl

/-! ### `setOutcome` -/
@[simp] theorem State.setOutcome_v (o : StepOutcome) : (s.setOutcome o).v = s.v := rfl
@[simp] theorem State.setOutcome_i (o : StepOutcome) : (s.setOutcome o).i = s.i := rfl
@[simp] theorem State.setOutcome_pc (o : StepOutcome) : (s.setOutcome o).pc = s.pc := rfl
@[simp] theorem State.setOutcome_stack (o : StepOutcome) : (s.setOutcome o).stack = s.stack := rfl
@[simp] theorem State.setOutcome_sp (o : StepOutcome) : (s.setOutcome o).sp = s.sp := rfl
@[simp] theorem State.setOutcome_dt (o : StepOutcome) : (s.setOutcome o).dt = s.dt := rfl
@[simp] theorem State.setOutcome_st (o : StepOutcome) : (s.setOutcome o).st = s.st := rfl
@[simp] theorem State.setOutcome_disp (o : StepOutcome) : (s.setOutcome o).disp = s.disp := rfl
@[simp] theorem State.setOutcome_drawFlag (o : StepOutcome) : (s.setOutcome o).drawFlag = s.drawFlag := rfl
@[simp] theorem State.setOutcome_mem (o : StepOutcome) : (s.setOutcome o).mem = s.mem := rfl
@[simp] theorem State.setOutcome_outcome (o : StepOutcome) : (s.setOutcome o).outcome = o := rfl
@[simp] theorem State.setOutcome_keys (o : StepOutcome) : (s.setOutcome o).keys = s.keys := rfl
@[simp] theorem State.setOutcome_rnd (o : StepOutcome) : (s.setOutcome o).rnd = s.rnd := rfl
@[simp] theorem State.setOutcome_samples (o : StepOutcome) : (s.setOutcome o).samples = s.samples := rfl
@[simp] theorem State.setOutcome_agenda (o : StepOutcome) : (s.setOutcome o).agenda = s.agenda := rfl
@[simp] theorem State.setOutcome_started (o : StepOutcome) : (s.setOutcome o).started = s.started := rfl
@[simp] theorem State.setOutcome_getV (o : StepOutcome) (q : Reg) : (s.setOutcome o).getV q = s.getV q := rfl
@[simp] theorem State.setOutcome_readByte (o : StepOutcome) (a : Nat) : (s.setOutcome o).readByte a = s.readByte a := rfl
@[simp] theorem State.setOutcome_slot (o : StepOutcome) (k : Fin 16) : (s.setOutcome o).slot k = s.slot k := rfl
@[simp] theorem State.setOutcome_cell (o : StepOutcome) (p : Fin 32) (c : Fin 64) : (s.setOutcome o).cell p c = s.cell p c := rfl
@[simp] theorem State.setOutcome_lowestKey (o : StepOutcome) : (s.setOutcome o).lowestKey = s.lowestKey := rfl

/-! ### `setInputs` -/
@[simp] theorem State.setInputs_v (ks : Word) (n : Byte) : (s.setInputs ks n).v = s.v := rfl
@[simp] theorem State.setInputs_i (ks : Word) (n : Byte) : (s.setInputs ks n).i = s.i := rfl
@[simp] theorem State.setInputs_pc (ks : Word) (n : Byte) : (s.setInputs ks n).pc = s.pc := rfl
@[simp] theorem State.setInputs_stack (ks : Word) (n : Byte) : (s.setInputs ks n).stack = s.stack := rfl
@[simp] theorem State.setInputs_sp (ks : Word) (n : Byte) : (s.setInputs ks n).sp = s.sp := rfl
@[simp] theorem State.setInputs_dt (ks : Word) (n : Byte) : (s.setInputs ks n).dt = s.dt := rfl
@[simp] theorem State.setInputs_st (ks : Word) (n : Byte) : (s.setInputs ks n).st = s.st := rfl
@[simp] theorem State.setInputs_disp (ks : Word) (n : Byte) : (s.setInputs ks n).disp = s.disp := rfl
@[simp] theorem State.setInputs_drawFlag (ks : Word) (n : Byte) : (s.setInputs ks n).drawFlag = s.drawFlag := rfl
@[simp] theorem State.setInputs_mem (ks : Word) (n : Byte) : (s.setInputs ks n).mem = s.mem := rfl
@[simp] theorem State.setInputs_outcome (ks : Word) (n : Byte) : (s.setInputs ks n).outcome = s.outcome := rfl
@[simp] theorem State.setInputs_keys (ks : Word) (n : Byte) : (s.setInputs ks n).keys = ks := rfl
@[simp] theorem State.setInputs_rnd (ks : Word) (n : Byte) : (s.setInputs ks n).rnd = n := rfl
@[simp] theorem State.setInputs_samples (ks : Word) (n : Byte) : (s.setInputs ks n).samples = s.samples := rfl
@[simp] theorem State.setInputs_agenda (ks : Word) (n : Byte) : (s.setInputs ks n).agenda = s.agenda := rfl
@[simp] theorem State.setInputs_started (ks : Word) (n : Byte) : (s.setInputs ks n).started = s.started := rfl
@[simp] theorem State.setInputs_getV (ks : Word) (n : Byte) (q : Reg) : (s.setInputs ks n).getV q = s.getV q := rfl
@[simp] theorem State.setInputs_readByte (ks : Word) (n : Byte) (a : Nat) : (s.setInputs ks n).readByte a = s.readByte a := rfl
@[simp] theorem State.setInputs_slot (ks : Word) (n : Byte) (k : Fin 16) : (s.setInputs ks n).slot k = s.slot k := rfl
@[simp] theorem State.setInputs_cell (ks : Word) (n : Byte) (p : Fin 32) (c : Fin 64) : (s.setInputs ks n).cell p c = s.cell p c := rfl

/-! ### `flipCell` -/
@[simp] theorem State.flipCell_v (row : Fin 32) (col : Fin 64) : (s.flipCell row col).v = s.v := rfl
@[simp] theorem State.flipCell_i (row : Fin 32) (col : Fin 64) : (s.flipCell row col).i = s.i := rfl
@[simp] theorem State.flipCell_pc (row : Fin 32) (col : Fin 64) : (s.flipCell row col).pc = s.pc := rfl
@[simp] theorem State.flipCell_stack (row : Fin 32) (col : Fin 64) : (s.flipCell row col).stack = s.stack := rfl
@[simp] theorem State.flipCell_sp (row : Fin 32) (col : Fin 64) : (s.flipCell row col).sp = s.sp := rfl
@[simp] theorem State.flipCell_dt (row : Fin 32) (col : Fin 64) : (s.flipCell row col).dt = s.dt := rfl
@[simp] theorem State.flipCell_st (row : Fin 32) (col : Fin 64) : (s.flipCell row col).st = s.st := rfl
@[simp] theorem State.flipCell_drawFlag (row : Fin 32) (col : Fin 64) : (s.flipCell row col).drawFlag = s.drawFlag := rfl
@[simp] theorem State.flipCell_mem (row : Fin 32) (col : Fin 64) : (s.flipCell row col).mem = s.mem := rfl
@[simp] theorem State.flipCell_outcome (row : Fin 32) (col : Fin 64) : (s.flipCell row col).outcome = s.outcome := rfl
@[simp] theorem State.flipCell_keys (row : Fin 32) (col : Fin 64) : (s.flipCell row col).keys = s.keys := rfl
@[simp] theorem State.flipCell_rnd (row : Fin 32) (col : Fin 64) : (s.flipCell row col).rnd = s.rnd := rfl
@[simp] theorem State.flipCell_samples (row : Fin 32) (col : Fin 64) : (s.flipCell row col).samples = s.samples := rfl
@[simp] theorem State.flipCell_agenda (row : Fin 32) (col : Fin 64) : (s.flipCell row col).agenda = s.agenda := rfl
@[simp] theorem State.flipCell_started (row : Fin 32) (col : Fin 64) : (s.flipCell row col).started = s.started := rfl
@[simp] theorem State.flipCell_getV (row : Fin 32) (col : Fin 64) (q : Reg) : (s.flipCell row col).getV q = s.getV q := rfl
@[simp] theorem State.flipCell_readByte (row : Fin 32) (col : Fin 64) (a : Nat) : (s.flipCell row col).readByte a = s.readByte a := rfl
@[simp] theorem State.flipCell_slot (row : Fin 32) (col : Fin 64) (k : Fin 16) : (s.flipCell row col).slot k = s.slot k := rfl
@[simp] theorem State.flipCell_lowestKey (row : Fin 32) (col : Fin 64) : (s.flipCell row col).lowestKey = s.lowestKey := rfl

/-! ### `clearDisp` -/
@[simp] theorem State.clearDisp_v : (s.clearDisp).v = s.v := rfl
@[simp] theorem State.clearDisp_i : (s.clearDisp).i = s.i := rfl
@[simp] theorem State.clearDisp_pc : (s.clearDisp).pc = s.pc := rfl
@[simp] theorem State.clearDisp_stack : (s.clearDisp).stack = s.stack := rfl
@[simp] theorem State.clearDisp_sp : (s.clearDisp).sp = s.sp := rfl
@[simp] theorem State.clearDisp_dt : (s.clearDisp).dt = s.dt := rfl
@[simp] theorem State.clearDisp_st : (s.clearDisp).st = s.st := rfl
@[simp] theorem State.clearDisp_drawFlag : (s.clearDisp).drawFlag = s.drawFlag := rfl
@[simp] theorem State.clearDisp_mem : (s.clearDisp).mem = s.mem := rfl
@[simp] theorem State.clearDisp_outcome : (s.clearDisp).outcome = s.outcome := rfl
@[simp] theorem State.clearDisp_keys : (s.clearDisp).keys = s.keys := rfl
@[simp] theorem State.clearDisp_rnd : (s.clearDisp).rnd = s.rnd := rfl
@[simp] theorem State.clearDisp_samples : (s.clearDisp).samples = s.samples := rfl
@[simp] theorem State.clearDisp_agenda : (s.clearDisp).agenda = s.agenda := rfl
@[simp] theorem State.clearDisp_started : (s.clearDisp).started = s.started := rfl
@[simp] theorem State.clearDisp_getV (q : Reg) : (s.clearDisp).getV q = s.getV q := rfl
@[simp] theorem State.clearDisp_readByte (a : Nat) : (s.clearDisp).readByte a = s.readByte a := rfl
@[simp] theorem State.clearDisp_slot (k : Fin 16) : (s.clearDisp).slot k = s.slot k := rfl
@[simp] theorem State.clearDisp_lowestKey  : (s.clearDisp).lowestKey = s.lowestKey := rfl

/-! ### `setAgenda` -/
@[simp] theorem State.setAgenda_v (es : List HostEvent) : (s.setAgenda es).v = s.v := rfl
@[simp] theorem State.setAgenda_i (es : List HostEvent) : (s.setAgenda es).i = s.i := rfl
@[simp] theorem State.setAgenda_pc (es : List HostEvent) : (s.setAgenda es).pc = s.pc := rfl
@[simp] theorem State.setAgenda_stack (es : List HostEvent) : (s.setAgenda es).stack = s.stack := rfl
@[simp] theorem State.setAgenda_sp (es : List HostEvent) : (s.setAgenda es).sp = s.sp := rfl
@[simp] theorem State.setAgenda_dt (es : List HostEvent) : (s.setAgenda es).dt = s.dt := rfl
@[simp] theorem State.setAgenda_st (es : List HostEvent) : (s.setAgenda es).st = s.st := rfl
@[simp] theorem State.setAgenda_disp (es : List HostEvent) : (s.setAgenda es).disp = s.disp := rfl
@[simp] theorem State.setAgenda_drawFlag (es : List HostEvent) : (s.setAgenda es).drawFlag = s.drawFlag := rfl
@[simp] theorem State.setAgenda_mem (es : List HostEvent) : (s.setAgenda es).mem = s.mem := rfl
@[simp] theorem State.setAgenda_outcome (es : List HostEvent) : (s.setAgenda es).outcome = s.outcome := rfl
@[simp] theorem State.setAgenda_keys (es : List HostEvent) : (s.setAgenda es).keys = s.keys := rfl
@[simp] theorem State.setAgenda_rnd (es : List HostEvent) : (s.setAgenda es).rnd = s.rnd := rfl
@[simp] theorem State.setAgenda_samples (es : List HostEvent) : (s.setAgenda es).samples = s.samples := rfl
@[simp] theorem State.setAgenda_agenda (es : List HostEvent) : (s.setAgenda es).agenda = es := rfl
@[simp] theorem State.setAgenda_started (es : List HostEvent) : (s.setAgenda es).started = s.started := rfl
@[simp] theorem State.setAgenda_getV (es : List HostEvent) (q : Reg) : (s.setAgenda es).getV q = s.getV q := rfl
@[simp] theorem State.setAgenda_readByte (es : List HostEvent) (a : Nat) : (s.setAgenda es).readByte a = s.readByte a := rfl
@[simp] theorem State.setAgenda_slot (es : List HostEvent) (k : Fin 16) : (s.setAgenda es).slot k = s.slot k := rfl
@[simp] theorem State.setAgenda_cell (es : List HostEvent) (p : Fin 32) (c : Fin 64) : (s.setAgenda es).cell p c = s.cell p c := rfl
@[simp] theorem State.setAgenda_lowestKey (es : List HostEvent) : (s.setAgenda es).lowestKey = s.lowestKey := rfl

/-! ### `setSamples` -/
@[simp] theorem State.setSamples_v (n : Nat) : (s.setSamples n).v = s.v := rfl
@[simp] theorem State.setSamples_i (n : Nat) : (s.setSamples n).i = s.i := rfl
@[simp] theorem State.setSamples_pc (n : Nat) : (s.setSamples n).pc = s.pc := rfl
@[simp] theorem State.setSamples_stack (n : Nat) : (s.setSamples n).stack = s.stack := rfl
@[simp] theorem State.setSamples_sp (n : Nat) : (s.setSamples n).sp = s.sp := rfl
@[simp] theorem State.setSamples_dt (n : Nat) : (s.setSamples n).dt = s.dt := rfl
@[simp] theorem State.setSamples_st (n : Nat) : (s.setSamples n).st = s.st := rfl
@[simp] theorem State.setSamples_disp (n : Nat) : (s.setSamples n).disp = s.disp := rfl
@[simp] theorem State.setSamples_drawFlag (n : Nat) : (s.setSamples n).drawFlag = s.drawFlag := rfl
@[simp] theorem State.setSamples_mem (n : Nat) : (s.setSamples n).mem = s.mem := rfl
@[simp] theorem State.setSamples_outcome (n : Nat) : (s.setSamples n).outcome = s.outcome := rfl
@[simp] theorem State.setSamples_keys (n : Nat) : (s.setSamples n).keys = s.keys := rfl
@[simp] theorem State.setSamples_rnd (n : Nat) : (s.setSamples n).rnd = s.rnd := rfl
@[simp] theorem State.setSamples_samples (n : Nat) : (s.setSamples n).samples = n := rfl
@[simp] theorem State.setSamples_agenda (n : Nat) : (s.setSamples n).agenda = s.agenda := rfl
@[simp] theorem State.setSamples_started (n : Nat) : (s.setSamples n).started = s.started := rfl
@[simp] theorem State.setSamples_getV (n : Nat) (q : Reg) : (s.setSamples n).getV q = s.getV q := rfl
@[simp] theorem State.setSamples_readByte (n : Nat) (a : Nat) : (s.setSamples n).readByte a = s.readByte a := rfl
@[simp] theorem State.setSamples_slot (n : Nat) (k : Fin 16) : (s.setSamples n).slot k = s.slot k := rfl
@[simp] theorem State.setSamples_cell (n : Nat) (p : Fin 32) (c : Fin 64) : (s.setSamples n).cell p c = s.cell p c := rfl
@[simp] theorem State.setSamples_lowestKey (n : Nat) : (s.setSamples n).lowestKey = s.lowestKey := rfl

/-! ### What an update writes, through the accessor of that piece -/

theorem State.getV_setV (r q : Reg) (b : Byte) : (s.setV r b).getV q = if q = r then b else s.getV q := by
  simp only [State.getV, State.setV, Fin.getElem_fin, Vector.getElem_set, Fin.ext_iff, eq_comm]

@[simp] theorem State.getV_setV_self (r : Reg) (b : Byte) : (s.setV r b).getV r = b := by simp [State.getV_setV]

theorem State.getV_setV_of_ne {r q : Reg} (b : Byte) (h : q ≠ r) : (s.setV r b).getV q = s.getV q := by
  simp [State.getV_setV, h]

@[simp] theorem State.readByte_setMem (m : Memory) (a : Nat) : (s.setMem m).readByte a = Memory.read m a := rfl

@[simp] theorem State.slot_setStack (slots : Vector Word 16) (depth : Fin 17) (k : Fin 16) :
    (s.setStack slots depth).slot k = slots[k] := rfl

@[simp] theorem State.dataAddr_eq (k : Nat) : s.dataAddr k = s.i.toNat + k := rfl

@[simp] theorem State.instrAddr_eq : s.instrAddr = s.pc - 2 := rfl

@[simp] theorem State.keyDown_eq (k : Nat) : s.keyDown k = s.keys.getLsbD k := rfl

@[simp] theorem State.advancePc_eq : s.advancePc = s.setPc (s.pc + 2) := rfl

@[simp] theorem State.rewindPc_eq : s.rewindPc = s.setPc (s.pc - 2) := rfl

@[simp] theorem State.storeBytes_eq (a : Nat) (bs : List Byte) :
    s.storeBytes a bs = s.setMem (Memory.writeBytes s.mem a bs) := rfl

theorem State.cell_flipCell (row p : Fin 32) (col c : Fin 64) :
    (s.flipCell row col).cell p c = if p = row ∧ c = col then !s.cell row col else s.cell p c := by
  simp only [State.cell, State.flipCell, State.setDisp, Fin.getElem_fin, Vector.getElem_set, Fin.ext_iff]
  by_cases hp : row.val = p.val <;> by_cases hc : col.val = c.val <;>
    simp [hp, hc, eq_comm]

@[simp] theorem State.cell_clearDisp (p : Fin 32) (c : Fin 64) : s.clearDisp.cell p c = false := by
  simp [State.cell, State.clearDisp, State.setDisp]

/-- The cell of index `row*64 + col` is the cell at that row and column (R32). -/
theorem State.cellAt_index (row : Fin 32) (col : Fin 64) (h : row.val * 64 + col.val < 2048) :
    s.cellAt ⟨row.val * 64 + col.val, h⟩ = s.cell row col := by
  have hr : Fin.ofNat 32 ((row.val * 64 + col.val) / 64) = row := by
    apply Fin.ext; simp only [Fin.val_ofNat]; omega
  have hc : Fin.ofNat 64 (row.val * 64 + col.val) = col := by
    apply Fin.ext; simp only [Fin.val_ofNat]; omega
  simp only [State.cellAt, hr, hc]

end Sys2Proof.Machine
end

