-- ==== Sys2Proof/Laws/Memory.lean ====
section
/-! SUPPORT. Memory: a read after a write, and the canonical form that every memory operation keeps. -/

namespace Sys2Proof.Machine

/-- The font region reads as the font until something is written there. -/
theorem Memory.unlisted_font {k : Nat} (h : k < 80) : Memory.unlisted (0x050 + k) = font.getD k 0 := by
  simp [Memory.unlisted, h]

/-- Every other address reads as zero until something is written there. -/
theorem Memory.unlisted_zero {a : Nat} (h : a < 0x050 ∨ 0x0A0 ≤ a) : Memory.unlisted a = 0 := by
  unfold Memory.unlisted
  rw [if_neg]
  simp only [Config.fontBase, Config.fontLen]
  omega

@[simp] theorem Memory.read_nil (a : Nat) : Memory.read [] a = Memory.unlisted a := rfl

@[simp] theorem Memory.wfFrom_cons (lo k : Nat) (b : Byte) (rest : Memory) :
    Memory.wfFrom lo ((k, b) :: rest) = true ↔
      lo ≤ k ∧ k < 4096 ∧ b ≠ Memory.unlisted k ∧ Memory.wfFrom (k + 1) rest = true := by
  simp [Memory.wfFrom, and_assoc]

/-- A canonical form from a later address on is one from an earlier address on. -/
theorem Memory.wfFrom_mono {m : Memory} {lo lo' : Nat} (hlo : lo' ≤ lo) (h : Memory.wfFrom lo m = true) :
    Memory.wfFrom lo' m = true := by
  cases m with
  | nil => rfl
  | cons cell rest =>
    obtain ⟨k, b⟩ := cell
    rw [Memory.wfFrom_cons] at h ⊢
    exact ⟨hlo.trans h.1, h.2⟩

/-- An address below all the listed ones reads as unlisted. -/
theorem Memory.read_below {m : Memory} {lo a : Nat} (h : Memory.wfFrom lo m = true) (ha : a < lo) :
    Memory.read m a = Memory.unlisted a := by
  induction m generalizing lo with
  | nil => rfl
  | cons cell rest ih =>
    obtain ⟨k, b⟩ := cell
    rw [Memory.wfFrom_cons] at h
    have hne : a ≠ k := by omega
    simp only [Memory.read, hne, if_false]
    exact ih h.2.2.2 (by omega)

theorem Memory.read_consCell {m : Memory} {lo a : Nat} (b : Byte) (q : Nat) (h : Memory.wfFrom lo m = true)
    (ha : a < lo) : Memory.read (Memory.consCell a b m) q = if q = a then b else Memory.read m q := by
  unfold Memory.consCell
  split
  · rename_i hb
    split
    · rename_i hq; rw [hq, hb, Memory.read_below h ha]
    · rfl
  · simp [Memory.read]

theorem Memory.wf_consCell {m : Memory} {lo a : Nat} (b : Byte) (h : Memory.wfFrom (a + 1) m = true)
    (hlo : lo ≤ a) (ha : a < 4096) : Memory.wfFrom lo (Memory.consCell a b m) = true := by
  unfold Memory.consCell
  split
  · exact Memory.wfFrom_mono (by omega) h
  · rename_i hb
    exact (Memory.wfFrom_cons ..).2 ⟨hlo, ha, hb, h⟩

theorem Memory.read_insert {m : Memory} {lo : Nat} (a : Nat) (b : Byte) (q : Nat) (h : Memory.wfFrom lo m = true) :
    Memory.read (Memory.insert m a b) q = if q = a then b else Memory.read m q := by
  induction m generalizing lo with
  | nil => exact Memory.read_consCell (lo := a + 1) b q rfl (by omega)
  | cons cell rest ih =>
    obtain ⟨k, c⟩ := cell
    have hh := (Memory.wfFrom_cons ..).1 h
    simp only [Memory.insert]
    split
    · rename_i hlt
      exact Memory.read_consCell (lo := k) b q ((Memory.wfFrom_cons ..).2 ⟨le_refl k, hh.2⟩) hlt
    · split
      · rename_i heq
        subst heq
        rw [Memory.read_consCell b q hh.2.2.2 (by omega)]
        simp only [Memory.read]
        split <;> rfl
      · rename_i hne
        simp only [Memory.read, ih hh.2.2.2]
        by_cases hq : q = k
        · have : q ≠ a := by omega
          simp [hq, show k ≠ a by omega]
        · simp [hq]

theorem Memory.wf_insert {m : Memory} {lo a : Nat} (b : Byte) (h : Memory.wfFrom lo m = true) (hlo : lo ≤ a)
    (ha : a < 4096) : Memory.wfFrom lo (Memory.insert m a b) = true := by
  induction m generalizing lo with
  | nil => exact Memory.wf_consCell b rfl hlo ha
  | cons cell rest ih =>
    obtain ⟨k, c⟩ := cell
    have hh := (Memory.wfFrom_cons ..).1 h
    simp only [Memory.insert]
    split
    · rename_i hlt
      exact Memory.wf_consCell b ((Memory.wfFrom_cons ..).2 ⟨hlt, hh.2⟩) hlo ha
    · split
      · rename_i heq
        subst heq
        exact Memory.wf_consCell b hh.2.2.2 hlo ha
      · exact (Memory.wfFrom_cons ..).2 ⟨hh.1, hh.2.1, hh.2.2.1, ih hh.2.2.2 (by omega)⟩

/-- A read after a write gives the byte written there, and every other address as before. -/
theorem Memory.read_write {m : Memory} (h : Memory.wf m = true) (a : Nat) (b : Byte) (q : Nat) :
    Memory.read (Memory.write m a b) q = if q = a ∧ a < 4096 then b else Memory.read m q := by
  unfold Memory.write
  split
  · rename_i ha
    rw [Memory.read_insert a b q h]
    simp [show a < 4096 from ha]
  · rename_i ha
    have : ¬ (q = a ∧ a < 4096) := fun hq => ha hq.2
    simp [this]

/-- A write keeps the canonical form. -/
theorem Memory.wf_write {m : Memory} (h : Memory.wf m = true) (a : Nat) (b : Byte) :
    Memory.wf (Memory.write m a b) = true := by
  unfold Memory.write
  split
  · rename_i ha
    exact Memory.wf_insert b h (Nat.zero_le a) ha
  · exact h

/-- A block store keeps the canonical form. -/
theorem Memory.wf_writeBytes {m : Memory} (h : Memory.wf m = true) (a : Nat) (bs : List Byte) :
    Memory.wf (Memory.writeBytes m a bs) = true := by
  induction bs generalizing m a with
  | nil => exact h
  | cons b bs ih => exact ih (Memory.wf_write h a b) (a + 1)

theorem Memory.read_consCell_of_ne (m : Memory) (a : Nat) (b : Byte) {q : Nat} (hq : q ≠ a) :
    Memory.read (Memory.consCell a b m) q = Memory.read m q := by
  unfold Memory.consCell
  split <;> simp [Memory.read, hq]

/-- A write leaves every other address alone, in any memory. -/
theorem Memory.read_write_of_ne (m : Memory) (a : Nat) (b : Byte) {q : Nat} (hq : q ≠ a) :
    Memory.read (Memory.write m a b) q = Memory.read m q := by
  unfold Memory.write
  split
  · induction m with
    | nil => exact Memory.read_consCell_of_ne [] a b hq
    | cons cell rest ih =>
      obtain ⟨k, c⟩ := cell
      simp only [Memory.insert]
      split
      · exact Memory.read_consCell_of_ne _ a b hq
      · split
        · rename_i hk
          rw [Memory.read_consCell_of_ne _ a b hq]
          simp [Memory.read, hk ▸ hq]
        · simp only [Memory.read, ih]
  · rfl

/-- An address outside a stored block reads as before, in any memory. -/
theorem Memory.read_writeBytes_outside (m : Memory) (a : Nat) (bs : List Byte) {q : Nat}
    (hq : q < a ∨ a + bs.length ≤ q) : Memory.read (Memory.writeBytes m a bs) q = Memory.read m q := by
  induction bs generalizing m a with
  | nil => rfl
  | cons b bs ih =>
    simp only [List.length_cons] at hq
    rw [Memory.writeBytes, ih _ (a + 1) (by omega), Memory.read_write_of_ne m a b (by omega)]

/-- An address inside a stored block that lies in memory reads as the byte stored there. -/
theorem Memory.read_writeBytes_inside {m : Memory} (h : Memory.wf m = true) (a : Nat) (bs : List Byte) (k : Nat)
    (hk : k < bs.length) (ha : a + k < 4096) : Memory.read (Memory.writeBytes m a bs) (a + k) = bs[k] := by
  induction bs generalizing m a k with
  | nil => simp at hk
  | cons b bs ih =>
    cases k with
    | zero =>
      rw [Memory.writeBytes, Memory.read_writeBytes_outside _ _ _ (by omega),
        Memory.read_write h, if_pos ⟨by omega, by omega⟩]
      rfl
    | succ k =>
      have hlen : k < bs.length := by simpa using hk
      have := ih (Memory.wf_write h a b) (a + 1) k hlen (by omega)
      rw [Memory.writeBytes, show a + (k + 1) = a + 1 + k by omega, this]
      rfl

/-- The memory right after reset is in canonical form. -/
theorem reset_memory_wf : Memory.wf State.reset.mem = true := rfl

end Sys2Proof.Machine
end

