-- ==== Sys2Proof/Laws/Ops.lean ====
section
/-! SUPPORT. One lemma per shared operation: what it answers, in each of its cases. -/

namespace Sys2Proof.Machine

variable (s : State)

/-! ### The end of a step -/

@[simp] theorem State.complete_eq : s.complete = .next (s.setOutcome .ok) := rfl
@[simp] theorem State.wait_eq : s.wait = .next (s.setOutcome .waiting) := rfl
@[simp] theorem State.raise_eq (f : Fault) : s.raise f = .next (s.setOutcome (.fault f)) := rfl

theorem State.checkRange_pass {access : Access} {lo count : Nat} {body : Result}
    (h : count = 0 ∨ lo + count - 1 ≤ 4095) : s.checkRange access lo count body = body := by
  unfold State.checkRange
  rw [if_neg]
  simp only [Config.memSize]
  omega

theorem State.checkRange_fail {access : Access} {lo count : Nat} {body : Result}
    (h : 0 < count ∧ 4095 < lo + count - 1) :
    s.checkRange access lo count body =
      .next (s.setOutcome (.fault (.memoryOutOfRange s.instrAddr access lo (lo + count - 1)))) := by
  unfold State.checkRange
  rw [if_pos ⟨h.1, by simp only [Config.memSize]; omega⟩]
  rfl

theorem State.checkKey_pass {x : Reg} {body : Result} (h : (s.getV x).toNat ≤ 15) : s.checkKey x body = body := by
  unfold State.checkKey
  rw [if_neg (by omega)]

theorem State.checkKey_fail {x : Reg} {body : Result} (h : 15 < (s.getV x).toNat) :
    s.checkKey x body = .next (s.setOutcome (.fault (.keyIndexOutOfRange s.instrAddr (s.getV x)))) := by
  unfold State.checkKey
  rw [if_pos h]
  rfl

/-- A skip moves `pc` by 2 or not at all, and always completes. -/
theorem State.skipIf_eq (taken : Bool) :
    s.skipIf taken = .next ((s.setPc (if taken then s.pc + 2 else s.pc)).setOutcome .ok) := by
  cases taken <;> rfl

/-! ### The call stack -/

theorem State.push_of_lt (ret : Word) (h : s.sp.val < 16) :
    s.push ret = some (s.setStack (s.stack.set s.sp.val ret h) ⟨s.sp.val + 1, Nat.succ_lt_succ h⟩) := dif_pos h

theorem State.push_full (ret : Word) (h : s.sp.val = 16) : s.push ret = none := dif_neg (by omega)

theorem State.pop_of_pos (h : 0 < s.sp.val) (top : s.sp.val - 1 < 16) :
    s.pop = some (s.slot ⟨s.sp.val - 1, top⟩, s.setStack s.stack ⟨s.sp.val - 1, Nat.lt_succ_of_lt top⟩) := dif_pos h

theorem State.pop_empty (h : s.sp.val = 0) : s.pop = none := dif_neg (by omega)

/-! ### The flag-writing ALU -/

/-- What every register holds after the common shape of the flag writers (R130): the statements in order. -/
theorem State.getV_aluWithFlag (x q : Reg) (flag : State → Bool) (result : State → Byte) :
    (s.aluWithFlag x flag result).getV q =
      if q = x then result ((s.setV vf 0).setV vf (flagByte (flag (s.setV vf 0))))
      else if q = vf then flagByte (flag (s.setV vf 0))
      else s.getV q := by
  simp only [State.aluWithFlag, State.getV_setV]
  split
  · rfl
  · split <;> rfl

/-- The flag writers touch registers only. -/
theorem State.aluWithFlag_eq (x : Reg) (flag : State → Bool) (result : State → Byte) :
    s.aluWithFlag x flag result = { s with v := (s.aluWithFlag x flag result).v } := rfl

/-! ### Block copies and keys -/

/-- A block load touches registers only. -/
theorem State.loadBlock_eq (n : Nat) : s.loadBlock n = { s with v := (s.loadBlock n).v } := by
  induction n with
  | zero => rfl
  | succ n ih => rw [State.loadBlock]; exact congrArg (fun t => State.setV t _ _) ih |>.trans rfl

@[simp] theorem State.loadBlock_i (n : Nat) : (s.loadBlock n).i = s.i := by rw [State.loadBlock_eq]
@[simp] theorem State.loadBlock_pc (n : Nat) : (s.loadBlock n).pc = s.pc := by rw [State.loadBlock_eq]
@[simp] theorem State.loadBlock_stack (n : Nat) : (s.loadBlock n).stack = s.stack := by rw [State.loadBlock_eq]
@[simp] theorem State.loadBlock_sp (n : Nat) : (s.loadBlock n).sp = s.sp := by rw [State.loadBlock_eq]
@[simp] theorem State.loadBlock_dt (n : Nat) : (s.loadBlock n).dt = s.dt := by rw [State.loadBlock_eq]
@[simp] theorem State.loadBlock_st (n : Nat) : (s.loadBlock n).st = s.st := by rw [State.loadBlock_eq]
@[simp] theorem State.loadBlock_drawFlag (n : Nat) : (s.loadBlock n).drawFlag = s.drawFlag := by rw [State.loadBlock_eq]
@[simp] theorem State.loadBlock_mem (n : Nat) : (s.loadBlock n).mem = s.mem := by rw [State.loadBlock_eq]
@[simp] theorem State.loadBlock_outcome (n : Nat) : (s.loadBlock n).outcome = s.outcome := by rw [State.loadBlock_eq]
@[simp] theorem State.loadBlock_keys (n : Nat) : (s.loadBlock n).keys = s.keys := by rw [State.loadBlock_eq]
@[simp] theorem State.loadBlock_rnd (n : Nat) : (s.loadBlock n).rnd = s.rnd := by rw [State.loadBlock_eq]
@[simp] theorem State.loadBlock_samples (n : Nat) : (s.loadBlock n).samples = s.samples := by rw [State.loadBlock_eq]
@[simp] theorem State.loadBlock_agenda (n : Nat) : (s.loadBlock n).agenda = s.agenda := by rw [State.loadBlock_eq]
@[simp] theorem State.loadBlock_started (n : Nat) : (s.loadBlock n).started = s.started := by rw [State.loadBlock_eq]
@[simp] theorem State.loadBlock_disp (n : Nat) : (s.loadBlock n).disp = s.disp := by rw [State.loadBlock_eq]
@[simp] theorem State.loadBlock_readByte (n a : Nat) : (s.loadBlock n).readByte a = s.readByte a := by
  simp [State.readByte]
@[simp] theorem State.loadBlock_slot (n : Nat) (k : Fin 16) : (s.loadBlock n).slot k = s.slot k := by simp [State.slot]
@[simp] theorem State.loadBlock_cell (n : Nat) (p : Fin 32) (c : Fin 64) : (s.loadBlock n).cell p c = s.cell p c := by
  simp [State.cell]

theorem State.getV_loadBlock (n : Nat) (hn : n ≤ 16) (q : Reg) :
    (s.loadBlock n).getV q = if q.val < n then s.readByte (s.dataAddr q.val) else s.getV q := by
  induction n with
  | zero => rfl
  | succ n ih =>
    have hval : (Fin.ofNat 16 n).val = n := Nat.mod_eq_of_lt (by omega)
    simp only [State.loadBlock, State.getV_setV, ih (by omega), Fin.ext_iff, hval]
    by_cases hq : q.val = n
    · simp [hq]
    · by_cases hlt : q.val < n
      · simp [hq, hlt, show q.val < n + 1 by omega]
      · simp [hq, hlt, show ¬ q.val < n + 1 by omega]

theorem State.length_regBlock (x : Reg) : (s.regBlock x).length = x.val + 1 := by
  have := x.isLt
  simp [State.regBlock]

theorem State.getElem_regBlock (x : Reg) (k : Nat) (h : k < (s.regBlock x).length) (hk : k < 16) :
    (s.regBlock x)[k] = s.getV ⟨k, hk⟩ := by
  simp [State.regBlock, State.getV]

@[simp] theorem length_bcdDigits (b : Byte) : (bcdDigits b).length = 3 := rfl

/-- No key is found exactly where the key vector is all zero. -/
theorem State.lowestKey_none : s.lowestKey = none ↔ s.keys = 0 := by
  simp only [State.lowestKey, List.find?_eq_none, List.mem_range, State.keyDown]
  constructor
  · intro h
    apply BitVec.eq_of_getLsbD_eq
    intro k hk
    simpa using h k hk
  · intro h k _
    simp [h]

/-- The key found is down and every smaller one is up. -/
theorem State.lowestKey_some {k : Nat} :
    s.lowestKey = some k ↔ k < 16 ∧ s.keyDown k = true ∧ ∀ j, j < k → s.keyDown j = false := by
  simp only [State.lowestKey, List.find?_range_eq_some, List.mem_range]
  constructor
  · rintro ⟨h1, h2, h3⟩; exact ⟨h2, h1, fun j hj => by simpa using h3 j hj⟩
  · rintro ⟨h1, h2, h3⟩; exact ⟨h2, h1, fun j hj => by simpa using h3 j hj⟩

/-! ### The sprite compositor -/

/-- The compositor touches `VF` and the display only. -/
theorem State.drawDot_eq (x y : Reg) (row col : Nat) :
    ∃ v d, s.drawDot x y row col = { s with v := v, disp := d } := by
  unfold State.drawDot
  dsimp only
  split <;> exact ⟨_, _, rfl⟩

theorem State.getV_drawDot (x y : Reg) (row col : Nat) (q : Reg) (h : q ≠ vf) :
    (s.drawDot x y row col).getV q = s.getV q := by
  unfold State.drawDot
  dsimp only
  split <;> simp [State.getV_setV, h]

theorem State.drawCols_eq (x y : Reg) (row : Nat) (b : Byte) (cols : Nat) :
    ∃ v d, s.drawCols x y row b cols = { s with v := v, disp := d } := by
  induction cols with
  | zero => exact ⟨_, _, rfl⟩
  | succ col ih =>
    obtain ⟨v, d, h⟩ := ih
    simp only [State.drawCols, h]
    split
    · obtain ⟨v', d', h'⟩ := State.drawDot_eq { s with v := v, disp := d } x y row col
      exact ⟨v', d', h'⟩
    · exact ⟨v, d, rfl⟩

@[simp] theorem State.drawCols_i (x y : Reg) (row : Nat) (b : Byte) (cols : Nat) : (s.drawCols x y row b cols).i = s.i := by
  obtain ⟨_, _, h⟩ := s.drawCols_eq x y row b cols; rw [h]
@[simp] theorem State.drawCols_pc (x y : Reg) (row : Nat) (b : Byte) (cols : Nat) : (s.drawCols x y row b cols).pc = s.pc := by
  obtain ⟨_, _, h⟩ := s.drawCols_eq x y row b cols; rw [h]
@[simp] theorem State.drawCols_stack (x y : Reg) (row : Nat) (b : Byte) (cols : Nat) : (s.drawCols x y row b cols).stack = s.stack := by
  obtain ⟨_, _, h⟩ := s.drawCols_eq x y row b cols; rw [h]
@[simp] theorem State.drawCols_sp (x y : Reg) (row : Nat) (b : Byte) (cols : Nat) : (s.drawCols x y row b cols).sp = s.sp := by
  obtain ⟨_, _, h⟩ := s.drawCols_eq x y row b cols; rw [h]
@[simp] theorem State.drawCols_dt (x y : Reg) (row : Nat) (b : Byte) (cols : Nat) : (s.drawCols x y row b cols).dt = s.dt := by
  obtain ⟨_, _, h⟩ := s.drawCols_eq x y row b cols; rw [h]
@[simp] theorem State.drawCols_st (x y : Reg) (row : Nat) (b : Byte) (cols : Nat) : (s.drawCols x y row b cols).st = s.st := by
  obtain ⟨_, _, h⟩ := s.drawCols_eq x y row b cols; rw [h]
@[simp] theorem State.drawCols_drawFlag (x y : Reg) (row : Nat) (b : Byte) (cols : Nat) : (s.drawCols x y row b cols).drawFlag = s.drawFlag := by
  obtain ⟨_, _, h⟩ := s.drawCols_eq x y row b cols; rw [h]
@[simp] theorem State.drawCols_mem (x y : Reg) (row : Nat) (b : Byte) (cols : Nat) : (s.drawCols x y row b cols).mem = s.mem := by
  obtain ⟨_, _, h⟩ := s.drawCols_eq x y row b cols; rw [h]
@[simp] theorem State.drawCols_outcome (x y : Reg) (row : Nat) (b : Byte) (cols : Nat) : (s.drawCols x y row b cols).outcome = s.outcome := by
  obtain ⟨_, _, h⟩ := s.drawCols_eq x y row b cols; rw [h]
@[simp] theorem State.drawCols_keys (x y : Reg) (row : Nat) (b : Byte) (cols : Nat) : (s.drawCols x y row b cols).keys = s.keys := by
  obtain ⟨_, _, h⟩ := s.drawCols_eq x y row b cols; rw [h]
@[simp] theorem State.drawCols_rnd (x y : Reg) (row : Nat) (b : Byte) (cols : Nat) : (s.drawCols x y row b cols).rnd = s.rnd := by
  obtain ⟨_, _, h⟩ := s.drawCols_eq x y row b cols; rw [h]
@[simp] theorem State.drawCols_samples (x y : Reg) (row : Nat) (b : Byte) (cols : Nat) : (s.drawCols x y row b cols).samples = s.samples := by
  obtain ⟨_, _, h⟩ := s.drawCols_eq x y row b cols; rw [h]
@[simp] theorem State.drawCols_agenda (x y : Reg) (row : Nat) (b : Byte) (cols : Nat) : (s.drawCols x y row b cols).agenda = s.agenda := by
  obtain ⟨_, _, h⟩ := s.drawCols_eq x y row b cols; rw [h]
@[simp] theorem State.drawCols_started (x y : Reg) (row : Nat) (b : Byte) (cols : Nat) : (s.drawCols x y row b cols).started = s.started := by
  obtain ⟨_, _, h⟩ := s.drawCols_eq x y row b cols; rw [h]
@[simp] theorem State.drawCols_readByte (x y : Reg) (row : Nat) (b : Byte) (cols : Nat) (a : Nat) : (s.drawCols x y row b cols).readByte a = s.readByte a := by
  simp [State.readByte]
@[simp] theorem State.drawCols_slot (x y : Reg) (row : Nat) (b : Byte) (cols : Nat) (k : Fin 16) : (s.drawCols x y row b cols).slot k = s.slot k := by
  simp [State.slot]

theorem State.getV_drawCols (x y : Reg) (row : Nat) (b : Byte) (cols : Nat) (q : Reg) (h : q ≠ vf) :
    (s.drawCols x y row b cols).getV q = s.getV q := by
  induction cols with
  | zero => rfl
  | succ col ih =>
    simp only [State.drawCols]
    split
    · rw [State.getV_drawDot _ x y row col q h, ih]
    · exact ih

theorem State.drawRows_eq (x y : Reg) (rows : Nat) :
    ∃ v d, s.drawRows x y rows = { s with v := v, disp := d } := by
  induction rows with
  | zero => exact ⟨_, _, rfl⟩
  | succ row ih =>
    obtain ⟨v, d, h⟩ := ih
    simp only [State.drawRows, h]
    exact State.drawCols_eq { s with v := v, disp := d } x y row _ 8

@[simp] theorem State.drawRows_i (x y : Reg) (rows : Nat) : (s.drawRows x y rows).i = s.i := by
  obtain ⟨_, _, h⟩ := s.drawRows_eq x y rows; rw [h]
@[simp] theorem State.drawRows_pc (x y : Reg) (rows : Nat) : (s.drawRows x y rows).pc = s.pc := by
  obtain ⟨_, _, h⟩ := s.drawRows_eq x y rows; rw [h]
@[simp] theorem State.drawRows_stack (x y : Reg) (rows : Nat) : (s.drawRows x y rows).stack = s.stack := by
  obtain ⟨_, _, h⟩ := s.drawRows_eq x y rows; rw [h]
@[simp] theorem State.drawRows_sp (x y : Reg) (rows : Nat) : (s.drawRows x y rows).sp = s.sp := by
  obtain ⟨_, _, h⟩ := s.drawRows_eq x y rows; rw [h]
@[simp] theorem State.drawRows_dt (x y : Reg) (rows : Nat) : (s.drawRows x y rows).dt = s.dt := by
  obtain ⟨_, _, h⟩ := s.drawRows_eq x y rows; rw [h]
@[simp] theorem State.drawRows_st (x y : Reg) (rows : Nat) : (s.drawRows x y rows).st = s.st := by
  obtain ⟨_, _, h⟩ := s.drawRows_eq x y rows; rw [h]
@[simp] theorem State.drawRows_drawFlag (x y : Reg) (rows : Nat) : (s.drawRows x y rows).drawFlag = s.drawFlag := by
  obtain ⟨_, _, h⟩ := s.drawRows_eq x y rows; rw [h]
@[simp] theorem State.drawRows_mem (x y : Reg) (rows : Nat) : (s.drawRows x y rows).mem = s.mem := by
  obtain ⟨_, _, h⟩ := s.drawRows_eq x y rows; rw [h]
@[simp] theorem State.drawRows_outcome (x y : Reg) (rows : Nat) : (s.drawRows x y rows).outcome = s.outcome := by
  obtain ⟨_, _, h⟩ := s.drawRows_eq x y rows; rw [h]
@[simp] theorem State.drawRows_keys (x y : Reg) (rows : Nat) : (s.drawRows x y rows).keys = s.keys := by
  obtain ⟨_, _, h⟩ := s.drawRows_eq x y rows; rw [h]
@[simp] theorem State.drawRows_rnd (x y : Reg) (rows : Nat) : (s.drawRows x y rows).rnd = s.rnd := by
  obtain ⟨_, _, h⟩ := s.drawRows_eq x y rows; rw [h]
@[simp] theorem State.drawRows_samples (x y : Reg) (rows : Nat) : (s.drawRows x y rows).samples = s.samples := by
  obtain ⟨_, _, h⟩ := s.drawRows_eq x y rows; rw [h]
@[simp] theorem State.drawRows_agenda (x y : Reg) (rows : Nat) : (s.drawRows x y rows).agenda = s.agenda := by
  obtain ⟨_, _, h⟩ := s.drawRows_eq x y rows; rw [h]
@[simp] theorem State.drawRows_started (x y : Reg) (rows : Nat) : (s.drawRows x y rows).started = s.started := by
  obtain ⟨_, _, h⟩ := s.drawRows_eq x y rows; rw [h]
@[simp] theorem State.drawRows_readByte (x y : Reg) (rows : Nat) (a : Nat) : (s.drawRows x y rows).readByte a = s.readByte a := by
  simp [State.readByte]
@[simp] theorem State.drawRows_slot (x y : Reg) (rows : Nat) (k : Fin 16) : (s.drawRows x y rows).slot k = s.slot k := by
  simp [State.slot]

theorem State.getV_drawRows (x y : Reg) (rows : Nat) (q : Reg) (h : q ≠ vf) :
    (s.drawRows x y rows).getV q = s.getV q := by
  induction rows with
  | zero => rfl
  | succ row ih =>
    simp only [State.drawRows]
    rw [State.getV_drawCols _ x y row _ 8 q h, ih]

/-! ### The engine -/

@[simp] theorem mapNext_next (f : State → State) (t : State) : mapNext f (.next t) = .next (f t) := rfl

/-- An event of a core that has been reset has its meaning. -/
theorem State.whenStarted_of_started {body : Result} (h : s.started = true) : s.whenStarted body = body := by
  simp [State.whenStarted, h]

/-- The fetch faults exactly where `pc + 1` passes address 4095. -/
theorem State.runInstruction_fetchFault (h : 4095 < s.pc.toNat + 1) :
    s.runInstruction =
      .next (s.setOutcome (.fault (.memoryOutOfRange s.pc .fetch s.pc.toNat (s.pc.toNat + 1)))) := by
  unfold State.runInstruction
  rw [if_pos (by simp only [Config.memSize]; omega)]
  rfl

theorem State.runInstruction_unknown {e : DecodeError} (h : s.pc.toNat + 1 ≤ 4095)
    (hd : decodeWord s.fetchWord = .error e) :
    s.runInstruction =
      .next ((s.setPc (s.pc + 2)).setOutcome (.fault (.unknownOpcode s.pc s.fetchWord))) := by
  unfold State.runInstruction
  rw [if_neg (by simp only [Config.memSize]; omega), hd]
  rfl

theorem State.runInstruction_exec {i : Instr} (h : s.pc.toNat + 1 ≤ 4095)
    (hd : decodeWord s.fetchWord = .ok i) : s.runInstruction = exec i (s.setPc (s.pc + 2)) := by
  unfold State.runInstruction
  rw [if_neg (by simp only [Config.memSize]; omega), hd]
  rfl

@[simp] theorem State.hostTurn_eq :
    s.hostTurn =
      ((s.setInputs (Config.freeKeys s.samples) (Config.freeRnd s.samples)).setAgenda s.freshAgenda).setSamples
        (s.samples + 1) := rfl

/-- With nothing announced the machine's step is the core's `step` event. -/
theorem step_of_nil (h : s.agenda = []) : step s = s.stepEvent := by
  simp [step, State.nextEvent, h]

/-- With events announced the machine's step serves the first of them. -/
theorem step_of_cons {e : HostEvent} {rest : List HostEvent} (h : s.agenda = e :: rest) :
    step s = (s.setAgenda rest).handle e := by
  simp [step, State.nextEvent, h]

/-- The host's announced events stay; where there are none, any may come. -/
theorem State.freshAgenda_nil (h : s.agenda = []) : s.freshAgenda = Config.freeEvents s.samples := by
  simp [State.freshAgenda, h]

theorem State.freshAgenda_cons {e : HostEvent} {rest : List HostEvent} (h : s.agenda = e :: rest) :
    s.freshAgenda = e :: rest := by
  simp [State.freshAgenda, h]

@[simp] theorem State.tick_eq : s.tick = (s.setDT (decrement s.dt)).setST (decrement s.st) := rfl

@[simp] theorem State.frameAck_eq : s.frameAck = s.setDrawFlag false := rfl

theorem toNat_decrement (b : Byte) : (decrement b).toNat = b.toNat - 1 := by revert b; decide +kernel

/-- An image that fits is loaded whole. -/
theorem loadable_of_fits {image : List Byte} (h : image.length ≤ 3584) : loadable image = image := by
  simp [loadable, imageFits, h]

/-- An image that does not fit is not loaded at all. -/
theorem loadable_of_long {image : List Byte} (h : 3584 < image.length) : loadable image = [] := by
  simp [loadable, imageFits, show ¬ image.length ≤ 3584 by omega]

/-- After `reset` an address of the image reads as the image. -/
theorem read_bootMemory_image {image : List Byte} (h : image.length ≤ 3584) (k : Nat) (hk : k < image.length) :
    Memory.read (bootMemory image) (0x200 + k) = image[k] := by
  simp only [bootMemory, loadable_of_fits h]
  exact Memory.read_writeBytes_inside rfl _ _ k hk (by simp only [Config.progBase]; omega)

/-- After `reset` an address below the program or above the image reads as nothing had been written there. -/
theorem read_bootMemory_other {image : List Byte} (a : Nat) (h : a < 0x200 ∨ 0x200 + image.length ≤ a) :
    Memory.read (bootMemory image) a = Memory.unlisted a := by
  have hlen : (loadable image).length ≤ image.length := by unfold loadable; split <;> simp
  exact Memory.read_writeBytes_outside _ _ _ (by simp only [Config.progBase]; omega)

/-- The memory that `reset(image)` leaves is in canonical form. -/
theorem bootMemory_wf (image : List Byte) : Memory.wf (bootMemory image) = true :=
  Memory.wf_writeBytes rfl _ _

end Sys2Proof.Machine
end

