-- ==== Sys2Proof/Laws/Display.lean ====
section
/-! SUPPORT. What the sprite compositor does, column by column and row by row (spec/44_display.md section 2). -/

namespace Sys2Proof.Machine

variable (s : State)

/-- One 1-bit of a sprite toggles its own cell and no other. -/
theorem State.cell_drawDot (x y : Reg) (r k : Nat) (p : Fin 32) (c : Fin 64) :
    (s.drawDot x y r k).cell p c =
      if p = s.spriteRow y r ∧ c = s.spriteCol x k then !s.cell p c else s.cell p c := by
  simp only [State.drawDot, State.cell_flipCell]
  split
  · rename_i h; rw [h.1, h.2]; split <;> rfl
  · split <;> rfl

/-- One 1-bit of a sprite sets `VF` where its cell was lit, and else leaves it. -/
theorem State.getV_vf_drawDot (x y : Reg) (r k : Nat) :
    (s.drawDot x y r k).getV vf = if s.cell (s.spriteRow y r) (s.spriteCol x k) = true then 1 else s.getV vf := by
  simp only [State.drawDot, State.flipCell_getV]
  split
  · simp
  · rfl

theorem State.spriteRow_drawCols {x y : Reg} (hy : y ≠ vf) (row : Nat) (b : Byte) (n r : Nat) :
  (s.drawCols x y row b n).spriteRow y r = s.spriteRow y r := by
  simp [State.spriteRow, State.getV_drawCols _ _ _ _ _ _ _ hy]

theorem State.spriteCol_drawCols {x y : Reg} (hx : x ≠ vf) (row : Nat) (b : Byte) (n r : Nat) :
  (s.drawCols x y row b n).spriteCol x r = s.spriteCol x r := by
  simp [State.spriteCol, State.getV_drawCols _ _ _ _ _ _ _ hx]

/-- A 1-bit of the first `n` columns of the row byte `b` lands on the cell. -/
def State.rowDot (s : State) (x y : Reg) (row : Nat) (b : Byte) (n : Nat) (p : Fin 32) (c : Fin 64) : Prop :=
  ∃ k, k < n ∧ b.getLsbD (7 - k) = true ∧ p = s.spriteRow y row ∧ c = s.spriteCol x k

/-- Drawing the columns of one row with neither coordinate in `VF`: each 1-bit toggles its cell, and `VF` becomes 1 iff
one of those cells was lit. -/
theorem State.drawCols_spec {x y : Reg} (hx : x ≠ vf) (hy : y ≠ vf) (row : Nat) (b : Byte) (n : Nat) (hn : n ≤ 8) :
   (∀ p c, (s.rowDot x y row b n p c → (s.drawCols x y row b n).cell p c = !s.cell p c) ∧
     (¬ s.rowDot x y row b n p c → (s.drawCols x y row b n).cell p c = s.cell p c)) ∧
   ((∃ p c, s.rowDot x y row b n p c ∧ s.cell p c = true) → (s.drawCols x y row b n).getV vf = 1) ∧
   ((¬ ∃ p c, s.rowDot x y row b n p c ∧ s.cell p c = true) → (s.drawCols x y row b n).getV vf = s.getV vf) := by
  induction n with
  | zero => simp [State.rowDot, State.drawCols]
  | succ n ih =>
    obtain ⟨i1, i2, i3⟩ := ih (by omega)
    by_cases hb : b.getLsbD (7 - n) = true
    · have e : s.drawCols x y row b (n+1) = (s.drawCols x y row b n).drawDot x y row n := by
        simp [State.drawCols, hb]
      have old : ¬ s.rowDot x y row b n (s.spriteRow y row) (s.spriteCol x n) := by
        rintro ⟨k, hk, _, _, h⟩
        simp only [State.spriteCol, Fin.ext_iff, Fin.val_ofNat] at h
        omega
      have su : ∀ p c, s.rowDot x y row b (n+1) p c ↔ s.rowDot x y row b n p c ∨ (p = s.spriteRow y row ∧ c = s.spriteCol x n) := by
        intro p c
        constructor
        · rintro ⟨k, hk, h⟩
          by_cases hkn : k = n
          · subst hkn; exact Or.inr h.2
          · exact Or.inl ⟨k, by omega, h⟩
        · rintro (⟨k, hk, h⟩ | h)
          · exact ⟨k, by omega, h⟩
          · exact ⟨n, by omega, hb, h⟩
      rw [e]
      refine ⟨?_, ?_, ?_⟩
      · intro p c
        rw [su, State.cell_drawDot, s.spriteRow_drawCols hy, s.spriteCol_drawCols hx]
        by_cases h : p = s.spriteRow y row ∧ c = s.spriteCol x n
        · obtain ⟨rfl, rfl⟩ := h
          have := (i1 _ _).2 old
          simp [this]
        · rw [if_neg h]; simp only [h, or_false]; exact i1 p c
      · rintro ⟨p, c, h, hc⟩
        rw [State.getV_vf_drawDot, s.spriteRow_drawCols hy, s.spriteCol_drawCols hx, (i1 _ _).2 old]
        split
        · rfl
        · rename_i hh
          rcases (su p c).1 h with h | ⟨rfl, rfl⟩
          · exact i2 ⟨p, c, h, hc⟩
          · exact absurd hc hh
      · intro h
        rw [State.getV_vf_drawDot, s.spriteRow_drawCols hy, s.spriteCol_drawCols hx, (i1 _ _).2 old, if_neg]
        · exact i3 (fun ⟨p, c, a, d⟩ => h ⟨p, c, (su p c).2 (Or.inl a), d⟩)
        · exact fun hh => h ⟨_, _, (su _ _).2 (Or.inr ⟨rfl, rfl⟩), hh⟩
    · have e : s.drawCols x y row b (n+1) = s.drawCols x y row b n := by
        simp [State.drawCols, hb]
      have su : ∀ p c, s.rowDot x y row b (n+1) p c ↔ s.rowDot x y row b n p c := by
        intro p c
        constructor
        · rintro ⟨k, hk, h⟩
          by_cases hkn : k = n
          · subst hkn; exact absurd h.1 hb
          · exact ⟨k, by omega, h⟩
        · rintro ⟨k, hk, h⟩
          exact ⟨k, by omega, h⟩
      rw [e]; simp only [su]; exact ⟨i1, i2, i3⟩

/-- Drawing the rows of a sprite with neither coordinate in `VF`: each 1-bit toggles its cell, and `VF` becomes 1 iff one
of those cells was lit. -/
theorem State.drawRows_spec {x y : Reg} (hx : x ≠ vf) (hy : y ≠ vf) (n : Nat) (hn : n ≤ 16) :
   (∀ p c, (s.spriteDot x y n p c → (s.drawRows x y n).cell p c = !s.cell p c) ∧
     (¬ s.spriteDot x y n p c → (s.drawRows x y n).cell p c = s.cell p c)) ∧
   ((∃ p c, s.spriteDot x y n p c ∧ s.cell p c = true) → (s.drawRows x y n).getV vf = 1) ∧
   ((¬ ∃ p c, s.spriteDot x y n p c ∧ s.cell p c = true) → (s.drawRows x y n).getV vf = s.getV vf) := by
  induction n with
  | zero => simp [State.spriteDot, State.drawRows]
  | succ n ih =>
    obtain ⟨i1, i2, i3⟩ := ih (by omega)
    have e : s.drawRows x y (n+1) = (s.drawRows x y n).drawCols x y n (s.readByte (s.i.toNat + n)) 8 := by
      simp [State.drawRows, State.dataAddr]
    obtain ⟨j1, j2, j3⟩ := (s.drawRows x y n).drawCols_spec hx hy n (s.readByte (s.i.toNat + n)) 8 (by omega)
    have rd : ∀ p c, (s.drawRows x y n).rowDot x y n (s.readByte (s.i.toNat + n)) 8 p c ↔
       ∃ c', c' < 8 ∧ (s.readByte (s.i.toNat + n)).getLsbD (7 - c') = true ∧ p.val = ((s.getV y).toNat + n) % 32 ∧ c.val = ((s.getV x).toNat + c') % 64 := by
      intro p c
      simp [State.rowDot, State.spriteRow, State.spriteCol, Fin.ext_iff, State.getV_drawRows _ _ _ _ _ hx, State.getV_drawRows _ _ _ _ _ hy]
    have su : ∀ p c, s.spriteDot x y (n+1) p c ↔ s.spriteDot x y n p c ∨ (s.drawRows x y n).rowDot x y n (s.readByte (s.i.toNat + n)) 8 p c := by
      intro p c
      rw [rd]
      constructor
      · rintro ⟨r, k, hr, h⟩
        by_cases hrn : r = n
        · subst hrn; exact Or.inr ⟨k, h⟩
        · exact Or.inl ⟨r, k, by omega, h⟩
      · rintro (⟨r, k, hr, h⟩ | ⟨k, h⟩)
        · exact ⟨r, k, by omega, h⟩
        · exact ⟨n, k, by omega, h⟩
    have old : ∀ p c, (s.drawRows x y n).rowDot x y n (s.readByte (s.i.toNat + n)) 8 p c → ¬ s.spriteDot x y n p c := by
      intro p c h
      rw [rd] at h
      obtain ⟨k, _, _, h, _⟩ := h
      rintro ⟨r, k, hr, _, _, h', _⟩
      omega
    rw [e]
    refine ⟨?_, ?_, ?_⟩
    · intro p c
      rw [su]
      by_cases h : (s.drawRows x y n).rowDot x y n (s.readByte (s.i.toNat + n)) 8 p c
      · simp [(j1 p c).1 h, (i1 p c).2 (old p c h), h]
      · simp only [(j1 p c).2 h, h, or_false]; exact i1 p c
    · rintro ⟨p, c, h, hc⟩
      rcases (su p c).1 h with h | h
      · by_cases hh : ∃ p c, (s.drawRows x y n).rowDot x y n (s.readByte (s.i.toNat + n)) 8 p c ∧ (s.drawRows x y n).cell p c = true
        · exact j2 hh
        · rw [j3 hh]; exact i2 ⟨p, c, h, hc⟩
      · exact j2 ⟨p, c, h, by rw [(i1 p c).2 (old p c h)]; exact hc⟩
    · intro h
      rw [j3, i3]
      · exact fun ⟨p, c, a, d⟩ => h ⟨p, c, (su p c).2 (Or.inl a), d⟩
      · rintro ⟨p, c, a, d⟩
        rw [(i1 p c).2 (old p c a)] at d
        exact h ⟨p, c, (su p c).2 (Or.inr a), d⟩

end Sys2Proof.Machine
end

