-- ==== Sys2Proof/Laws/PerInstr.lean ====
section
/-! SUPPORT. One lemma per constructor: the encoder's word of an instruction lies in the row of the opcode map that
spec/30_encoding.md R76 gives the instruction. -/

namespace Sys2Proof

theorem encodeA_mask (cls : BitVec 4) (addr : Addr) : encodeA cls addr &&& 0xF000 = cls.setWidth 16 <<< 12 := by
  apply BitVec.eq_of_getLsbD_eq; intro k hk; interval_cases k <;> simp [encodeA]

theorem encodeXI_mask_class (cls : BitVec 4) (x : Reg) (imm : Byte) :
    encodeXI cls x imm &&& 0xF000 = cls.setWidth 16 <<< 12 := by
  apply BitVec.eq_of_getLsbD_eq; intro k hk; interval_cases k <;> simp [encodeXI]

theorem encodeXI_mask_selector (cls : BitVec 4) (x : Reg) (imm : Byte) :
    encodeXI cls x imm &&& 0xF0FF = cls.setWidth 16 <<< 12 ||| imm.setWidth 16 := by
  apply BitVec.eq_of_getLsbD_eq; intro k hk; interval_cases k <;> simp [encodeXI]

theorem encodeXYN_mask_class (cls : BitVec 4) (x y : Reg) (n : BitVec 4) :
    encodeXYN cls x y n &&& 0xF000 = cls.setWidth 16 <<< 12 := by
  apply BitVec.eq_of_getLsbD_eq; intro k hk; interval_cases k <;> simp [encodeXYN]

theorem encodeXYN_mask_selector (cls : BitVec 4) (x y : Reg) (n : BitVec 4) :
    encodeXYN cls x y n &&& 0xF00F = cls.setWidth 16 <<< 12 ||| n.setWidth 16 := by
  apply BitVec.eq_of_getLsbD_eq; intro k hk; interval_cases k <;> simp [encodeXYN]

namespace Laws.TableRow

/-- The word the encoder gives the instruction has the fixed bits of the instruction's row. -/
def Statement (i : Instr) : Prop := encode i &&& (rowOf i).mask = (rowOf i).pattern

theorem cls : Statement .cls := rfl
theorem ret : Statement .ret := rfl
theorem jp (addr : Addr) : Statement (.jp addr) := encodeA_mask _ _
theorem call (addr : Addr) : Statement (.call addr) := encodeA_mask _ _
theorem seImm (x : Reg) (imm : Byte) : Statement (.seImm x imm) := encodeXI_mask_class _ _ _
theorem sneImm (x : Reg) (imm : Byte) : Statement (.sneImm x imm) := encodeXI_mask_class _ _ _
theorem seReg (x y : Reg) : Statement (.seReg x y) := encodeXYN_mask_selector _ _ _ _
theorem ldImm (x : Reg) (imm : Byte) : Statement (.ldImm x imm) := encodeXI_mask_class _ _ _
theorem addImm (x : Reg) (imm : Byte) : Statement (.addImm x imm) := encodeXI_mask_class _ _ _
theorem ldReg (x y : Reg) : Statement (.ldReg x y) := encodeXYN_mask_selector _ _ _ _
theorem orReg (x y : Reg) : Statement (.orReg x y) := encodeXYN_mask_selector _ _ _ _
theorem andReg (x y : Reg) : Statement (.andReg x y) := encodeXYN_mask_selector _ _ _ _
theorem xorReg (x y : Reg) : Statement (.xorReg x y) := encodeXYN_mask_selector _ _ _ _
theorem addReg (x y : Reg) : Statement (.addReg x y) := encodeXYN_mask_selector _ _ _ _
theorem subReg (x y : Reg) : Statement (.subReg x y) := encodeXYN_mask_selector _ _ _ _
theorem shr (x y : Reg) : Statement (.shr x y) := encodeXYN_mask_selector _ _ _ _
theorem subn (x y : Reg) : Statement (.subn x y) := encodeXYN_mask_selector _ _ _ _
theorem shl (x y : Reg) : Statement (.shl x y) := encodeXYN_mask_selector _ _ _ _
theorem sneReg (x y : Reg) : Statement (.sneReg x y) := encodeXYN_mask_selector _ _ _ _
theorem ldI (addr : Addr) : Statement (.ldI addr) := encodeA_mask _ _
theorem jpV0 (addr : Addr) : Statement (.jpV0 addr) := encodeA_mask _ _
theorem rnd (x : Reg) (imm : Byte) : Statement (.rnd x imm) := encodeXI_mask_class _ _ _
theorem drw (x y : Reg) (n : Fin 16) : Statement (.drw x y n) := encodeXYN_mask_class _ _ _ _
theorem skp (x : Reg) : Statement (.skp x) := encodeXI_mask_selector _ _ _
theorem sknp (x : Reg) : Statement (.sknp x) := encodeXI_mask_selector _ _ _
theorem ldVxDT (x : Reg) : Statement (.ldVxDT x) := encodeXI_mask_selector _ _ _
theorem ldVxK (x : Reg) : Statement (.ldVxK x) := encodeXI_mask_selector _ _ _
theorem ldDTVx (x : Reg) : Statement (.ldDTVx x) := encodeXI_mask_selector _ _ _
theorem ldSTVx (x : Reg) : Statement (.ldSTVx x) := encodeXI_mask_selector _ _ _
theorem addI (x : Reg) : Statement (.addI x) := encodeXI_mask_selector _ _ _
theorem ldF (x : Reg) : Statement (.ldF x) := encodeXI_mask_selector _ _ _
theorem ldB (x : Reg) : Statement (.ldB x) := encodeXI_mask_selector _ _ _
theorem ldMemVx (x : Reg) : Statement (.ldMemVx x) := encodeXI_mask_selector _ _ _
theorem ldVxMem (x : Reg) : Statement (.ldVxMem x) := encodeXI_mask_selector _ _ _

end Laws.TableRow

end Sys2Proof
end

