-- ==== Sys2Proof/Machine/Assembly.lean ====
section
/-! DEFINITION. The written form of an instruction (spec/30_encoding.md R83). There is no pseudo-instruction (R84). No step
reads this text; the encoding is what counts. -/

namespace Sys2Proof.Machine

/-- A hexadecimal digit, upper case. -/
def hexDigit (d : Nat) : String := ["0", "1", "2", "3", "4", "5", "6", "7", "8", "9", "A", "B", "C", "D", "E", "F"].getD d ""

/-- `Vx`: `V` and one hexadecimal digit. -/
def asmReg (r : Reg) : String := "V" ++ hexDigit r.val

/-- A 4-bit constant. -/
def asmNibble (n : Fin 16) : String := "0x" ++ hexDigit n.val

/-- An 8-bit constant. -/
def asmByte (b : Byte) : String := "0x" ++ hexDigit (b.toNat / 16) ++ hexDigit (b.toNat % 16)

/-- A 12-bit constant. -/
def asmAddr (a : Addr) : String :=
  "0x" ++ hexDigit (a.toNat / 256) ++ hexDigit (a.toNat / 16 % 16) ++ hexDigit (a.toNat % 16)

/-- One operand: the mnemonic, a space, the operand. -/
def asm1 (mnemonic a : String) : String := mnemonic ++ " " ++ a

/-- Two operands, separated by a comma. -/
def asm2 (mnemonic a b : String) : String := mnemonic ++ " " ++ a ++ ", " ++ b

/-- The line an assembler takes for the instruction (R83). The shifts are written with their `Vy`, so that the word's `y`
is kept. -/
def asm : Instr → String
  | .cls => "CLS"
  | .ret => "RET"
  | .jp addr => asm1 "JP" (asmAddr addr)
  | .call addr => asm1 "CALL" (asmAddr addr)
  | .seImm x imm => asm2 "SE" (asmReg x) (asmByte imm)
  | .sneImm x imm => asm2 "SNE" (asmReg x) (asmByte imm)
  | .seReg x y => asm2 "SE" (asmReg x) (asmReg y)
  | .ldImm x imm => asm2 "LD" (asmReg x) (asmByte imm)
  | .addImm x imm => asm2 "ADD" (asmReg x) (asmByte imm)
  | .ldReg x y => asm2 "LD" (asmReg x) (asmReg y)
  | .orReg x y => asm2 "OR" (asmReg x) (asmReg y)
  | .andReg x y => asm2 "AND" (asmReg x) (asmReg y)
  | .xorReg x y => asm2 "XOR" (asmReg x) (asmReg y)
  | .addReg x y => asm2 "ADD" (asmReg x) (asmReg y)
  | .subReg x y => asm2 "SUB" (asmReg x) (asmReg y)
  | .shr x y => asm2 "SHR" (asmReg x) (asmReg y)
  | .subn x y => asm2 "SUBN" (asmReg x) (asmReg y)
  | .shl x y => asm2 "SHL" (asmReg x) (asmReg y)
  | .sneReg x y => asm2 "SNE" (asmReg x) (asmReg y)
  | .ldI addr => asm2 "LD" "I" (asmAddr addr)
  | .jpV0 addr => asm2 "JP" "V0" (asmAddr addr)
  | .rnd x imm => asm2 "RND" (asmReg x) (asmByte imm)
  | .drw x y n => asm2 "DRW" (asmReg x) (asmReg y) ++ ", " ++ asmNibble n
  | .skp x => asm1 "SKP" (asmReg x)
  | .sknp x => asm1 "SKNP" (asmReg x)
  | .ldVxDT x => asm2 "LD" (asmReg x) "DT"
  | .ldVxK x => asm2 "LD" (asmReg x) "K"
  | .ldDTVx x => asm2 "LD" "DT" (asmReg x)
  | .ldSTVx x => asm2 "LD" "ST" (asmReg x)
  | .addI x => asm2 "ADD" "I" (asmReg x)
  | .ldF x => asm2 "LD" "F" (asmReg x)
  | .ldB x => asm2 "LD" "B" (asmReg x)
  | .ldMemVx x => asm2 "LD" "[I]" (asmReg x)
  | .ldVxMem x => asm2 "LD" (asmReg x) "[I]"

end Sys2Proof.Machine
end

