-- ==== Sys2Proof/Tests/Slice0.lean ====
section
/-! SUPPORT. Tests of the model: words and end states taken from spec/95_test_vectors.md (the vector's name stands in each
comment), and for every statement of Certificates/Slice0/Obligations.lean that has hypotheses a state and operands that meet
them, each clause at a boundary of its range. -/

namespace Sys2Proof.Tests

open Sys2Proof.Machine

set_option Elab.async false

/-! ### Helpers -/

/-- The reset state with registers preset. -/
def withV (presets : List (Reg × Byte)) : State := presets.foldl (fun s p => s.setV p.1 p.2) State.reset

/-- The result is a next state with the property. -/
def yields (r : Result) (p : State → Bool) : Bool :=
  match r with
  | .next t => p t
  | .fault _ => false
  | .refused _ => false

/-- One step of the state with the word at `pc`. -/
def stepWord (w : Nat) (s : State) (p : State → Bool) : Bool := yields (step (s.withFetchWord 16 w)) p

/-- Every one of these display cells has the value `b`. -/
def cellsAre (b : Bool) (s : State) (cells : List Nat) : Bool := cells.all fun c => s.cellAt (Fin.ofNat 2048 c) == b

/-- A state with these cells lit. -/
def lights (s : State) (cells : List (Fin 32 × Fin 64)) : State := cells.foldl (fun t c => t.flipCell c.1 c.2) s

/-- A stack of the given depth, every slot holding `w`. -/
def withStack (w : Word) (depth : Fin 17) : State := State.reset.setStack (Vector.replicate 16 w) depth

/-! ### Well-formedness -/

/-- R221, R222: the longest image that fits, and one byte more, which the check refuses. -/
theorem test_image_length_check :
    imageFits (List.replicate 3584 0) = true ∧ imageFits (List.replicate 3585 0) = false := by decide +kernel

/-! ### Decoding: every constructor, by a word written out in 95_test_vectors.md section 2.1 -/

theorem test_decode_control :
    decodeWord 0x00EE = .ok .ret ∧ decodeWord 0x1ABC = .ok (.jp 0xABC) ∧ decodeWord 0x2ABC = .ok (.call 0xABC) ∧
    decodeWord 0x3A7F = .ok (.seImm 0xA 0x7F) ∧ decodeWord 0x4A7F = .ok (.sneImm 0xA 0x7F) ∧
    decodeWord 0x5AB0 = .ok (.seReg 0xA 0xB) ∧ decodeWord 0x9AB0 = .ok (.sneReg 0xA 0xB) ∧
    decodeWord 0xBABC = .ok (.jpV0 0xABC) := by decide

theorem test_decode_alu :
    decodeWord 0x6A7F = .ok (.ldImm 0xA 0x7F) ∧ decodeWord 0x7A7F = .ok (.addImm 0xA 0x7F) ∧
    decodeWord 0x8AB0 = .ok (.ldReg 0xA 0xB) ∧ decodeWord 0x8AB1 = .ok (.orReg 0xA 0xB) ∧
    decodeWord 0x8AB2 = .ok (.andReg 0xA 0xB) ∧ decodeWord 0x8AB3 = .ok (.xorReg 0xA 0xB) ∧
    decodeWord 0x8AB4 = .ok (.addReg 0xA 0xB) ∧ decodeWord 0x8AB5 = .ok (.subReg 0xA 0xB) ∧
    decodeWord 0x8AB6 = .ok (.shr 0xA 0xB) ∧ decodeWord 0x8AB7 = .ok (.subn 0xA 0xB) ∧
    decodeWord 0x8ABE = .ok (.shl 0xA 0xB) ∧ decodeWord 0xCA7F = .ok (.rnd 0xA 0x7F) := by decide

theorem test_decode_index_memory :
    decodeWord 0xAABC = .ok (.ldI 0xABC) ∧ decodeWord 0xFA1E = .ok (.addI 0xA) ∧ decodeWord 0xFA29 = .ok (.ldF 0xA) ∧
    decodeWord 0xFA33 = .ok (.ldB 0xA) ∧ decodeWord 0xFA55 = .ok (.ldMemVx 0xA) ∧
    decodeWord 0xFA65 = .ok (.ldVxMem 0xA) := by decide

theorem test_decode_display_timers_keyboard :
    decodeWord 0x00E0 = .ok .cls ∧ decodeWord 0xDAB5 = .ok (.drw 0xA 0xB 5) ∧ decodeWord 0xDAB0 = .ok (.drw 0xA 0xB 0) ∧
    decodeWord 0xEA9E = .ok (.skp 0xA) ∧ decodeWord 0xEAA1 = .ok (.sknp 0xA) ∧ decodeWord 0xFA07 = .ok (.ldVxDT 0xA) ∧
    decodeWord 0xFA0A = .ok (.ldVxK 0xA) ∧ decodeWord 0xFA15 = .ok (.ldDTVx 0xA) ∧
    decodeWord 0xFA18 = .ok (.ldSTVx 0xA) := by decide

/-- The near misses of section 2.1, one of each unknown kind. -/
theorem test_decode_near_misses :
    decodeWord 0x0000 = .error .unknownClass0 ∧ decodeWord 0x00E1 = .error .unknownClass0 ∧
    decodeWord 0x01E0 = .error .unknownClass0 ∧ decodeWord 0x512F = .error .unknownClass5 ∧
    decodeWord 0x8128 = .error .unknownClass8 ∧ decodeWord 0x9AB1 = .error .unknownClass9 ∧
    decodeWord 0xE1A0 = .error .unknownClassE ∧ decodeWord 0xF185 = .error .unknownClassF ∧
    decode [0x60] = .error .tooShort := by decide

/-- R54: the byte at the lower address is the high byte. -/
theorem test_decode_bytes_high_first : decode [0x80, 0x14, 0x60] = .ok (.addReg 0 1, [0x60]) := by decide

/-! ### Control transfer -/

/-- CF1. -/
theorem test_jp : stepWord 0x1ABC State.reset (fun t => t.pc == 0x0ABC) = true := by decide +kernel

/-- CF4: the last free slot. -/
theorem test_call_deepest :
    stepWord 0x2ABC (withStack 0 15) (fun t => t.slot 15 == 0x0202 && t.sp.val == 16 && t.pc == 0x0ABC) = true := by
  decide +kernel

/-- CF5. -/
theorem test_call_overflow :
    stepWord 0x2ABC (withStack 0x456 16)
      (fun t => t.outcome == .fault (.stackOverflow 0x0200) && t.sp.val == 16 && t.slot 15 == 0x456 && t.pc == 0x0202) =
      true := by decide +kernel

/-- CF6: the slot keeps its value. -/
theorem test_ret :
    stepWord 0x00EE (withStack 0x456 1) (fun t => t.pc == 0x456 && t.sp.val == 0 && t.slot 0 == 0x456) = true := by
  decide +kernel

/-- CF7. -/
theorem test_ret_underflow :
    stepWord 0x00EE State.reset
      (fun t => t.outcome == .fault (.stackUnderflow 0x0200) && t.sp.val == 0 && t.pc == 0x0202) = true := by
  decide +kernel

/-- CF8 and CF9. -/
theorem test_se_byte :
    stepWord 0x332A (withV [(3, 0x2A)]) (fun t => t.pc == 0x0204) = true ∧
    stepWord 0x332A (withV [(3, 0x2B)]) (fun t => t.pc == 0x0202) = true := by decide +kernel

/-- CF10 and CF11. -/
theorem test_sne_byte :
    stepWord 0x432A (withV [(3, 0x2A)]) (fun t => t.pc == 0x0202) = true ∧
    stepWord 0x432A State.reset (fun t => t.pc == 0x0204) = true := by decide +kernel

/-- CF12 and CF13. -/
theorem test_se_register :
    stepWord 0x5120 (withV [(1, 7), (2, 7)]) (fun t => t.pc == 0x0204) = true ∧
    stepWord 0x5120 (withV [(1, 7), (2, 8)]) (fun t => t.pc == 0x0202) = true := by decide +kernel

/-- CF15 and CF16. -/
theorem test_sne_register :
    stepWord 0x9120 (withV [(1, 7), (2, 8)]) (fun t => t.pc == 0x0204) = true ∧
    stepWord 0x9120 (withV [(1, 7), (2, 7)]) (fun t => t.pc == 0x0202) = true := by decide +kernel

/-- CF18. -/
theorem test_jp_v0_above_memory :
    stepWord 0xBFFF (withV [(0, 0xFF)]) (fun t => t.pc == 0x10FE && t.outcome == .ok) = true := by decide +kernel

/-- CF18, the next step: the fetch faults and `pc` stays. -/
theorem test_fetch_fault :
    yields (step (State.reset.setPc 0x10FE))
      (fun t => t.outcome == .fault (.memoryOutOfRange 0x10FE .fetch 0x10FE 0x10FF) && t.pc == 0x10FE) = true := by
  decide +kernel

/-- CF20: the last word of memory is fetched, and is unknown. -/
theorem test_fetch_last_word :
    yields (step (State.reset.setPc 0x0FFE))
      (fun t => t.outcome == .fault (.unknownOpcode 0x0FFE 0) && t.pc == 0x1000) = true := by decide +kernel

/-! ### Loads, ALU, random -/

/-- AL1 and AL2. -/
theorem test_ld_byte :
    stepWord 0x6A2C (withV [(0xF, 3)]) (fun t => t.getV 0xA == 0x2C && t.getV 0xF == 3) = true ∧
    stepWord 0x6F07 State.reset (fun t => t.getV 0xF == 0x07) = true := by decide +kernel

/-- AL3: no carry recorded. -/
theorem test_add_byte : stepWord 0x710A (withV [(1, 0xFA), (0xF, 9)]) (fun t => t.getV 1 == 4 && t.getV 0xF == 9) = true := by
  decide +kernel

/-- AL5. -/
theorem test_ld_register : stepWord 0x8120 (withV [(2, 0x33)]) (fun t => t.getV 1 == 0x33) = true := by decide +kernel

/-- AL10. -/
theorem test_or :
    stepWord 0x8121 (withV [(1, 0x0C), (2, 0x0A), (0xF, 1)]) (fun t => t.getV 1 == 0x0E && t.getV 0xF == 1) = true := by
  decide +kernel

/-- AL7. -/
theorem test_and : stepWord 0x8122 (withV [(1, 0x0C), (2, 0x0A)]) (fun t => t.getV 1 == 0x08) = true := by decide +kernel

/-- AL8. -/
theorem test_xor : stepWord 0x8123 (withV [(1, 0x0C), (2, 0x0A)]) (fun t => t.getV 1 == 0x06) = true := by decide +kernel

/-- AL11 and AL12. -/
theorem test_add_register :
    stepWord 0x8014 (withV [(0, 0xC8), (1, 0x64)]) (fun t => t.getV 0 == 0x2C && t.getV 0xF == 1) = true ∧
    stepWord 0x8114 (withV [(1, 0x90)]) (fun t => t.getV 1 == 0x20 && t.getV 0xF == 1) = true := by decide +kernel

/-- AL14, AL15, AL16: `VF` as an operand. -/
theorem test_add_register_vf :
    stepWord 0x8F24 (withV [(0xF, 0xFF), (2, 0xFF)]) (fun t => t.getV 0xF == 0xFF) = true ∧
    stepWord 0x81F4 (withV [(1, 0x40), (0xF, 0x55)]) (fun t => t.getV 1 == 0x40 && t.getV 0xF == 0) = true ∧
    stepWord 0x8FF4 (withV [(0xF, 0x55)]) (fun t => t.getV 0xF == 0) = true := by decide +kernel

/-- AL17, AL18, AL19. -/
theorem test_sub :
    stepWord 0x8125 (withV [(1, 0x21), (2, 0x20)]) (fun t => t.getV 1 == 0x01 && t.getV 0xF == 1) = true ∧
    stepWord 0x8125 (withV [(1, 0x20), (2, 0x20)]) (fun t => t.getV 1 == 0 && t.getV 0xF == 0) = true ∧
    stepWord 0x8125 (withV [(1, 0x10), (2, 0x20)]) (fun t => t.getV 1 == 0xF0 && t.getV 0xF == 0) = true := by
  decide +kernel

/-- AL20, AL22, AL23. -/
theorem test_sub_vf :
    stepWord 0x8F25 (withV [(0xF, 0x55), (2, 3)]) (fun t => t.getV 0xF == 0xFD) = true ∧
    stepWord 0x81F5 (withV [(1, 0x40), (0xF, 0x55)]) (fun t => t.getV 1 == 0x3F && t.getV 0xF == 1) = true ∧
    stepWord 0x81F5 (withV [(0xF, 0x55)]) (fun t => t.getV 1 == 0 && t.getV 0xF == 0) = true := by decide +kernel

/-- AL24 and AL26: `Vy` is ignored; with `x = F` the end is 0. -/
theorem test_shr :
    stepWord 0x8126 (withV [(1, 5), (2, 0xFF)]) (fun t => t.getV 1 == 2 && t.getV 0xF == 1 && t.getV 2 == 0xFF) = true ∧
    stepWord 0x8F06 (withV [(0xF, 0xFF)]) (fun t => t.getV 0xF == 0) = true := by decide +kernel

/-- AL27, AL28, AL29. -/
theorem test_subn :
    stepWord 0x8127 (withV [(1, 0x10), (2, 0x30)]) (fun t => t.getV 1 == 0x20 && t.getV 0xF == 1) = true ∧
    stepWord 0x8127 (withV [(1, 0x30), (2, 0x10)]) (fun t => t.getV 1 == 0xE0 && t.getV 0xF == 0) = true ∧
    stepWord 0x8127 (withV [(1, 0x30), (2, 0x30)]) (fun t => t.getV 1 == 0 && t.getV 0xF == 0) = true := by
  decide +kernel

/-- AL30, AL31, AL32. -/
theorem test_subn_vf :
    stepWord 0x8F27 (withV [(0xF, 0x55), (2, 3)]) (fun t => t.getV 0xF == 0x02) = true ∧
    stepWord 0x8F27 (withV [(0xF, 0x55)]) (fun t => t.getV 0xF == 0) = true ∧
    stepWord 0x81F7 (withV [(1, 0x40), (0xF, 0x55)]) (fun t => t.getV 1 == 0xC0 && t.getV 0xF == 0) = true := by
  decide +kernel

/-- AL33 and AL36. -/
theorem test_shl :
    stepWord 0x812E (withV [(1, 0x81), (2, 0xFF)]) (fun t => t.getV 1 == 2 && t.getV 0xF == 1 && t.getV 2 == 0xFF) = true ∧
    stepWord 0x8F0E (withV [(0xF, 0xFF)]) (fun t => t.getV 0xF == 0) = true := by decide +kernel

/-- AL37 and AL39. -/
theorem test_rnd :
    stepWord 0xC30F (State.reset.setInputs 0 0xB7) (fun t => t.getV 3 == 0x07) = true ∧
    stepWord 0xC3FF (State.reset.setInputs 0 0xFF) (fun t => t.getV 3 == 0xFF) = true := by decide +kernel

/-! ### Index register and memory -/

/-- IM1. -/
theorem test_ld_i : stepWord 0xA300 (State.reset.setI 0xFFFF) (fun t => t.i == 0x0300) = true := by decide +kernel

/-- IM3 and IM4: no fault, no flag, modulo 65536. -/
theorem test_add_i :
    stepWord 0xF01E ((withV [(0, 1)]).setI 0x0FFF) (fun t => t.i == 0x1000 && t.getV 0xF == 0 && t.outcome == .ok) = true ∧
    stepWord 0xF01E ((withV [(0, 1), (0xF, 7)]).setI 0xFFFF) (fun t => t.i == 0 && t.getV 0xF == 7) = true := by
  decide +kernel

/-- S11 and IM6. -/
theorem test_ld_f :
    stepWord 0xF029 (withV [(0, 7)]) (fun t => t.i == 0x0073) = true ∧
    stepWord 0xF029 (withV [(0, 0xFF)]) (fun t => t.i == 0x054B) = true := by decide +kernel

/-- IM13: the last legal address. -/
theorem test_ld_b :
    stepWord 0xF033 ((withV [(0, 255)]).setI 0x0FFD)
      (fun t => t.readByte 0xFFD == 2 && t.readByte 0xFFE == 5 && t.readByte 0xFFF == 5 && t.outcome == .ok) = true := by
  decide +kernel

/-- IM14. -/
theorem test_ld_b_out_of_range :
    stepWord 0xF033 ((withV [(0, 255)]).setI 0x0FFE)
      (fun t => t.outcome == .fault (.memoryOutOfRange 0x0200 .write 0x0FFE 0x1000) && t.readByte 0xFFE == 0 &&
        t.readByte 0xFFF == 0 && t.pc == 0x0202) = true := by decide +kernel

/-- IM15. -/
theorem test_store_block :
    stepWord 0xF255 ((withV [(0, 1), (1, 2), (2, 3), (3, 9)]).setI 0x0400)
      (fun t => t.readByte 0x400 == 1 && t.readByte 0x401 == 2 && t.readByte 0x402 == 3 && t.readByte 0x403 == 0 &&
        t.i == 0x0400) = true := by decide +kernel

/-- IM17: nothing partial. -/
theorem test_store_block_out_of_range :
    stepWord 0xF155 ((withV [(0, 0xAB)]).setI 0x0FFF)
      (fun t => t.outcome == .fault (.memoryOutOfRange 0x0200 .write 0x0FFF 0x1000) && t.readByte 0xFFF == 0) = true := by
  decide +kernel

/-- IM19. -/
theorem test_load_block :
    stepWord 0xF265 (((withV [(3, 0x77)]).storeBytes 0x300 [2, 4, 6]).setI 0x0300)
      (fun t => t.getV 0 == 2 && t.getV 1 == 4 && t.getV 2 == 6 && t.getV 3 == 0x77 && t.i == 0x0300) = true := by
  decide +kernel

/-- IM21. -/
theorem test_load_block_out_of_range :
    stepWord 0xF065 (State.reset.setI 0x1000)
      (fun t => t.outcome == .fault (.memoryOutOfRange 0x0200 .read 0x1000 0x1000)) = true := by decide +kernel

/-! ### Display -/

/-- DP1. -/
theorem test_cls :
    stepWord 0x00E0 (lights (withV [(0xF, 6)]) [(0, 5), (1, 6), (31, 63)])
      (fun t => cellsAre false t [5, 70, 2047] && t.drawFlag && t.getV 0xF == 6) = true := by decide +kernel

/-- S6: both edges wrap. -/
theorem test_drw_wraps :
    stepWord 0xD122 (((withV [(1, 63), (2, 31)]).storeBytes 0x300 [0xFF, 0xFF]).setI 0x300)
      (fun t => cellsAre true t [2047, 1984, 1990, 63, 0, 6] && cellsAre false t [2046, 1991, 62, 7, 64] && t.getV 0xF == 0 &&
        t.drawFlag) = true := by decide +kernel

/-- DP11: `VF` as the column register is read again at each cell. -/
theorem test_drw_live_column :
    stepWord 0xDF11 (lights (((withV [(0xF, 5)]).storeBytes 0x300 [0xC0]).setI 0x300) [(0, 0)])
      (fun t => cellsAre false t [0, 1] && cellsAre true t [2] && t.getV 0xF == 1) = true := by decide +kernel

/-! ### Timers, keyboard, and the other events -/

/-- TK1. -/
theorem test_ld_from_delay : stepWord 0xF307 (State.reset.setDT 0x1E) (fun t => t.getV 3 == 0x1E && t.dt == 0x1E) = true := by
  decide +kernel

/-- TK2. -/
theorem test_ld_delay : stepWord 0xF015 (withV [(0, 0x3C)]) (fun t => t.dt == 0x3C && t.st == 0) = true := by decide +kernel

/-- TK3. -/
theorem test_ld_sound : stepWord 0xF118 (withV [(1, 5)]) (fun t => t.st == 5 && t.dt == 0) = true := by decide +kernel

/-- TK9 and TK10. -/
theorem test_skp :
    stepWord 0xE49E ((withV [(4, 0xA)]).setInputs 0x0400 0) (fun t => t.pc == 0x0204) = true ∧
    stepWord 0xE49E (withV [(4, 0xA)]) (fun t => t.pc == 0x0202) = true := by decide +kernel

/-- TK14. -/
theorem test_skp_key_out_of_range :
    stepWord 0xE09E ((withV [(0, 0x10)]).setInputs 0xFFFF 0)
      (fun t => t.outcome == .fault (.keyIndexOutOfRange 0x0200 0x10) && t.pc == 0x0202) = true := by decide +kernel

/-- TK11 and TK12. -/
theorem test_sknp :
    stepWord 0xE4A1 ((withV [(4, 0xA)]).setInputs 0x0400 0) (fun t => t.pc == 0x0202) = true ∧
    stepWord 0xE4A1 ((withV [(4, 0xA)]).setInputs 0xFBFF 0) (fun t => t.pc == 0x0204) = true := by decide +kernel

/-- TK15. -/
theorem test_sknp_key_out_of_range :
    stepWord 0xE0A1 (withV [(0, 0x10)])
      (fun t => t.outcome == .fault (.keyIndexOutOfRange 0x0200 0x10) && t.pc == 0x0202) = true := by decide +kernel

/-- TK16: the step waits at the same address. -/
theorem test_ld_key_waits :
    stepWord 0xF20A State.reset (fun t => t.outcome == .waiting && t.pc == 0x0200 && t.getV 2 == 0) = true := by
  decide +kernel

/-- TK17: the least key. -/
theorem test_ld_key :
    stepWord 0xF20A (State.reset.setInputs 0x0120 0) (fun t => t.getV 2 == 5 && t.pc == 0x0202 && t.outcome == .ok) = true := by
  decide +kernel

/-- TK4. -/
theorem test_tick :
    yields (step ((State.reset.setDT 2).setAgenda [.tick])) (fun t => t.dt == 1 && t.st == 0 && t.pc == 0x200) = true := by
  decide +kernel

/-- TK7. -/
theorem test_frame_ack :
    yields (step ((State.reset.setDrawFlag true).setAgenda [.frameAck])) (fun t => !t.drawFlag) = true := by decide +kernel

/-- P1's image, loaded by `reset(image)`. -/
theorem test_reset_event :
    yields (step ((withV [(3, 9)]).setAgenda [.reset [0x00, 0xE0, 0x12, 0x00]]))
      (fun t => t.fetchWord == 0x00E0 && t.readByte 0x202 == 0x12 && t.readByte 0x204 == 0 && t.getV 3 == 0 &&
        t.pc == 0x200) = true := by decide +kernel

/-- S9 and FT1: reset with nothing loaded. -/
theorem test_empty_program :
    yields (step State.reset)
      (fun t => t.outcome == .fault (.unknownOpcode 0x0200 0x0000) && t.pc == 0x0202) = true := by decide +kernel

/-- P4's note: glyph 7 of the default font. -/
theorem test_font_glyph : (List.range 5).map (fun k => State.reset.readByte (0x73 + k)) = [0xF0, 0x10, 0x20, 0x40, 0x40] := by
  decide +kernel

/-- R190: the fault codes, and 0 for no fault. -/
theorem test_outcome_codes :
    StepOutcome.ok.code = 0 ∧ StepOutcome.waiting.code = 0 ∧ (StepOutcome.fault (.unknownOpcode 0 0)).code = 1 ∧
    (StepOutcome.fault (.keyIndexOutOfRange 0 16)).code = 5 := by decide

/-- Listing P2: the written forms beside their words. -/
theorem test_assembly :
    (decodeWord 0x60C8).toOption.map asm = some "LD V0, 0xC8" ∧
    (decodeWord 0xF033).toOption.map asm = some "LD B, V0" ∧ (decodeWord 0xA300).toOption.map asm = some "LD I, 0x300" ∧
    (decodeWord 0x120C).toOption.map asm = some "JP 0x20C" := by decide +kernel

/-! ### Witnesses: the hypotheses of each statement can be met together, each clause at a boundary -/

/-- EncodeOfDecodeIsTheWord and DecoderAgreesWithTheOpcodeMap: a word of a row, its instruction, and the row in the map. -/
theorem witness_word_of_a_row :
    decodeWord 0x8AB6 = .ok (.shr 0xA 0xB) ∧ rowOf (.shr 0xA 0xB) ∈ opcodeMap ∧
    (rowOf (.shr 0xA 0xB)).covers 0x8AB6 = true := by decide

/-- UnknownWordsAreExactlyTheTable: both sides hold of a word in each class, and fail of its neighbour. -/
theorem witness_unknown_words :
    [0x00EF, 0x5AB1, 0x8AB8, 0x9ABF, 0xEA9F, 0xFA66].all (fun w => (decodeWord w).toOption.isNone) = true ∧
    [0x00EE, 0x5AB0, 0x8AB7, 0x9AB0, 0xEA9E, 0xFA65].all (fun w => (decodeWord w).toOption.isSome) = true := by decide

/-- StepRunsTheDecodedInstruction: the highest `pc` a fetch is made from, with nothing on the agenda and with a `step`. -/
theorem witness_step_runs :
    (∃ s : State, s.started = true ∧ s.pc.toNat + 1 = 4095 ∧ s.agenda = [] ∧
      decode [s.readByte s.pc.toNat, s.readByte (s.pc.toNat + 1)] = .ok (.cls, [])) ∧
    (∃ s : State, s.started = true ∧ s.pc.toNat + 1 = 4095 ∧ s.agenda = [.step 1 2, .tick] ∧
      decode [s.readByte s.pc.toNat, s.readByte (s.pc.toNat + 1)] = .ok (.cls, [])) :=
  ⟨⟨(State.reset.setPc 0xFFE).storeBytes 0xFFE [0x00, 0xE0], by decide +kernel⟩,
   ⟨((State.reset.setPc 0xFFE).storeBytes 0xFFE [0x00, 0xE0]).setAgenda [.step 1 2, .tick], by decide +kernel⟩⟩

/-- A `step` announced with inputs, and a tick after it. -/
def announced : List HostEvent := [.step 0 7, .tick]

/-- The statements on a next event that is a `step`: both ways it can be one. -/
theorem witness_step_next : State.reset.stepNext ∧ (State.reset.setAgenda announced).stepNext :=
  ⟨.inl rfl, .inr ⟨0, 7, [.tick], rfl⟩⟩

/-- UnknownWordIsReported, FetchBeyondMemoryIsReported: the highest `pc` that fetches and the lowest that does not, with
nothing announced and with an announced `step`. -/
theorem witness_fetch_ends :
    (∃ s : State, s.started = true ∧ s.agenda = [] ∧ s.pc.toNat + 1 = 4095 ∧
      decodeWord s.fetchWord = .error .unknownClass0) ∧
    (∃ s : State, s.started = true ∧ s.agenda = announced ∧ s.pc.toNat + 1 = 4095 ∧
      decodeWord s.fetchWord = .error .unknownClass0) ∧
    (∃ s : State, s.started = true ∧ s.agenda = [] ∧ s.pc.toNat + 1 = 4096) ∧
    (∃ s : State, s.started = true ∧ s.agenda = announced ∧ s.pc.toNat + 1 = 4096) :=
  ⟨⟨State.reset.setPc 0xFFE, by decide +kernel⟩, ⟨(State.reset.setPc 0xFFE).setAgenda announced, by decide +kernel⟩,
   ⟨State.reset.setPc 0xFFF, by decide⟩, ⟨(State.reset.setPc 0xFFF).setAgenda announced, by decide⟩⟩

/-- EveryStepReturns, TickDecrementsBothTimers, FrameAckClearsTheDrawFlag, AgendaIsServedInOrder. -/
theorem witness_started :
    State.reset.started = true ∧
    ∃ s : State, s.started = true ∧ s.agenda = [.tick, .frameAck] ∧ s.dt = 0 ∧ s.st = 255 ∧ s.drawFlag = true :=
  ⟨rfl, ((State.reset.setST 255).setDrawFlag true).setAgenda [.tick, .frameAck], by decide⟩

/-- NothingButResetBeforeReset: both clauses, the second with an event waiting and with none. -/
theorem witness_before_reset :
    (∃ s : State, s.started = false ∧ s.agenda = [.reset []]) ∧
    (∃ s : State, s.started = false ∧ s.agenda = [.tick, .reset []] ∧ ∀ image rest, s.agenda ≠ .reset image :: rest) ∧
    (∃ s : State, s.started = false ∧ ∀ image rest, s.agenda ≠ .reset image :: rest) :=
  ⟨⟨{ State.reset with started := false, agenda := [.reset []] }, by decide⟩,
   ⟨{ State.reset with started := false, agenda := [.tick, .reset []] }, rfl, rfl, by intro image rest h; cases h⟩,
   ⟨{ State.reset with started := false }, rfl, by intro image rest h; cases h⟩⟩

/-- ResetLoadsTheImageVerbatim, OverlongImageLoadsNothing: the empty image, one of two bytes, the longest, one more. -/
theorem witness_images :
    ([] : List Byte).length ≤ 4096 - 0x200 ∧ 2 ≤ [(0x12 : Byte), 0x00].length ∧
    (List.replicate 3584 (1 : Byte)).length = 4096 - 0x200 ∧ 3584 < (List.replicate 3585 (1 : Byte)).length := by
  simp only [List.length_replicate]; decide

/-- ResetInitialisesAllState: the ends of its address ranges. -/
theorem witness_reset_ranges :
    (79 < 80) ∧ (0x04F < 0x200 ∧ (0x04F < 0x050 ∨ 0x0A0 ≤ 0x04F)) ∧ (0x1FF < 0x200 ∧ (0x1FF < 0x050 ∨ 0x0A0 ≤ 0x1FF)) := by
  decide

/-- CoincidentRequestsAreServedInOrder: everything at once with `reset`, and without. -/
theorem witness_requests :
    (∃ r : Requests, r.reset = some [1] ∧ r.frameAck = true ∧ r.tick = true) ∧
    (∃ r : Requests, r.reset = none ∧ r.step = some (1, 2) ∧ r.frameAck = true ∧ r.tick = true) :=
  ⟨⟨⟨some [1], true, none, true⟩, by decide⟩, ⟨⟨none, true, some (1, 2), true⟩, by decide⟩⟩

/-- CoincidentRequestsAreServedInOrder: a machine whose agenda is the ordered requests, at a draw, at a timer load, with no
step among them, and with `reset`. -/
theorem witness_requests_served :
    (∃ s : State, s.started = true ∧ s.agenda = Requests.serialise ⟨none, true, some (1, 2), true⟩ ∧
      s.pc.toNat + 1 ≤ 4095 ∧ decodeWord s.fetchWord = .ok (.drw 1 2 0)) ∧
    (∃ s : State, s.started = true ∧ s.agenda = Requests.serialise ⟨none, true, some (1, 2), true⟩ ∧
      s.pc.toNat + 1 ≤ 4095 ∧ decodeWord s.fetchWord = .ok (.ldDTVx 0)) ∧
    (∃ s : State, s.started = true ∧ s.agenda = Requests.serialise ⟨none, true, some (1, 2), false⟩ ∧
      s.pc.toNat + 1 ≤ 4095 ∧ decodeWord s.fetchWord = .ok (.ldSTVx 1)) ∧
    (∃ s : State, s.started = true ∧ s.agenda = Requests.serialise ⟨none, true, none, true⟩) ∧
    (∃ s : State, s.agenda = Requests.serialise ⟨some [1], true, none, true⟩) :=
  ⟨⟨(State.reset.withFetchWord 16 0xD120).setAgenda [.frameAck, .step 1 2, .tick], by decide +kernel⟩,
   ⟨(State.reset.withFetchWord 16 0xF015).setAgenda [.frameAck, .step 1 2, .tick], by decide +kernel⟩,
   ⟨(State.reset.withFetchWord 16 0xF118).setAgenda [.frameAck, .step 1 2], by decide +kernel⟩,
   ⟨State.reset.setAgenda [.frameAck, .tick], by decide⟩, ⟨State.reset.setAgenda [.reset [1]], by decide⟩⟩

/-- R108: a draw at once with an acknowledge leaves the flag set; a timer loaded at once with a tick is decremented once. -/
theorem test_coincident_requests :
    yields (steps 2 ((State.reset.withFetchWord 16 0xD120).setAgenda [.frameAck, .step 0 0])) (fun t => t.drawFlag) = true ∧
    yields (steps 2 (((withV [(0, 9)]).withFetchWord 16 0xF015).setAgenda [.step 0 0, .tick])) (fun t => t.dt == 8) =
      true := by decide +kernel

/-- RetPopsThePc, CallPushesTheReturnAddress, CallThenRetRestoresThePc: depths 0, 1, 15, 16. -/
theorem witness_depths :
    (withStack 5 0).sp.val = 0 ∧ (withStack 5 1).sp.val = (0 : Fin 16).val + 1 ∧ (withStack 5 16).sp.val = (15 : Fin 16).val + 1 ∧
    (withStack 5 15).sp.val = (15 : Fin 16).val ∧ (withStack 5 15).sp.val < 16 ∧ (withStack 5 16).sp.val = 16 := by decide

/-- SelfJumpIsAFixedPoint: at the highest address it can stand at. -/
theorem witness_self_jump :
    ∃ s : State, s.started = true ∧ s.agenda = [] ∧ (0xFFE : Addr).toNat ≤ 4094 ∧ s.pc.toNat = (0xFFE : Addr).toNat ∧
      s.fetchWord = encodeA 0x1 0xFFE :=
  ⟨(State.reset.setPc 0xFFE).storeBytes 0xFFE [0x1F, 0xFE], by decide +kernel⟩

/-- The statements on the flag-writing instructions: each of the four clauses on which operand is `VF`. -/
theorem witness_vf_clauses :
    (∃ x y : Reg, x ≠ vf ∧ y ≠ vf) ∧ (∃ x y : Reg, x = vf ∧ y ≠ vf) ∧ (∃ x y : Reg, x ≠ vf ∧ y = vf) ∧
    (∃ x y : Reg, x = vf ∧ y = vf) := ⟨⟨14, 0, by decide⟩, ⟨15, 14, by decide⟩, ⟨0, 15, by decide⟩, ⟨15, 15, by decide⟩⟩

/-- FlagRegisterHoldsZeroOrOne: an addition and a draw that completes. -/
theorem witness_flag_register :
    (∃ s t : State, exec (.addReg 1 2) s = .next t ∧ t.noFault ∧ (1 : Reg) ≠ vf) ∧
    (∃ s t : State, exec (.drw 1 15 0) s = .next t ∧ t.noFault ∧ (1 : Reg) ≠ vf) :=
  ⟨⟨State.reset, _, rfl, fun f h => (by cases h), by decide⟩, ⟨State.reset, _, rfl, fun f h => (by cases h), by decide⟩⟩

/-- BcdStoresTheDigits, BlockStoreCopiesTheRegisters, BlockLoadCopiesTheBytes: the highest `I` of each. -/
theorem witness_ranges_inside :
    (∃ s : State, Memory.wf s.mem = true ∧ s.dataAddr 2 = 4095) ∧
    (∃ s : State, Memory.wf s.mem = true ∧ s.dataAddr (15 : Reg).val = 4095 ∧ (15 : Reg) ≤ 15 ∧ (0 : Reg) ≤ 15) :=
  ⟨⟨State.reset.setI 0xFFD, by decide⟩, ⟨State.reset.setI 0xFF0, by decide⟩⟩

/-- RangePastMemoryTransfersNothing: one address too high for each clause, and the highest `I`. -/
theorem witness_ranges_past :
    4095 < (State.reset.setI 0xFFE).i.toNat + 2 ∧ 4095 < (State.reset.setI 0xFF1).i.toNat + (15 : Reg).val ∧
    (0 < (1 : Fin 16).val ∧ 4095 < (State.reset.setI 0x1000).i.toNat + (1 : Fin 16).val - 1) ∧
    (0 < (15 : Fin 16).val ∧ 4095 < (State.reset.setI 0xFFFF).i.toNat + (15 : Fin 16).val - 1) := by decide

/-- StoreIsSeenByTheNextFetch: the last word of the longest block at the top of memory, and three digits there. -/
theorem witness_store_seen :
    (∃ s t : State, Memory.wf s.mem = true ∧ s.dataAddr (15 : Reg).val = 4095 ∧ (15 : Reg).val = (14 : Reg).val + 1 ∧
      exec (.ldMemVx 15) s = .next t) ∧
    (∃ s t : State, Memory.wf s.mem = true ∧ s.dataAddr 2 = 4095 ∧ exec (.ldB 15) s = .next t) :=
  ⟨⟨State.reset.setI 0xFF0, _, by decide, by decide, by decide, rfl⟩, ⟨State.reset.setI 0xFFD, _, by decide, by decide, rfl⟩⟩

/-- DrawXorsTheSprite, DrawRunsRowByRowBitByBit, DrawingTwiceRestoresTheDisplay: no row with `I` at its highest, one row at
the last byte of memory with a 1-bit in it, 15 rows. -/
theorem witness_draws :
    (∃ s : State, s.i = 0xFFFF ∧ ((0 : Fin 16).val = 0 ∨ s.dataAddr ((0 : Fin 16).val - 1) ≤ 4095)) ∧
    (∃ s : State, s.dataAddr ((1 : Fin 16).val - 1) = 4095 ∧ s.cell 0 63 = true ∧ s.spriteDot 1 2 1 0 63 ∧
      (1 : Reg) ≠ vf ∧ (2 : Reg) ≠ vf) ∧
    (∃ s : State, s.dataAddr ((15 : Fin 16).val - 1) = 4095 ∧ s.cell 0 7 = false ∧ s.spriteDot 1 2 15 0 7) :=
  ⟨⟨State.reset.setI 0xFFFF, by decide⟩,
   ⟨lights (((withV [(1, 56), (2, 32)]).setI 0xFFF).storeBytes 0xFFF [0x01]) [(0, 63)], by decide +kernel, by decide +kernel,
     ⟨0, 7, by decide +kernel⟩, by decide, by decide⟩,
   ⟨((withV []).setI 0xFF1).storeBytes 0xFF1 [0x01], by decide +kernel, by decide +kernel, ⟨0, 7, by decide +kernel⟩⟩⟩

/-- DrawFlagIsSetByDrawsAndClearedByTheHost: a draw that completes, an instruction that draws nothing, a step, and
`frame_ack`, each with the flag set before. -/
theorem witness_draw_flag :
    (∃ s t : State, exec (.drw 1 2 0) s = .next t ∧ t.noFault ∧ s.drawFlag = true) ∧
    (∃ s t : State, exec .ret s = .next t ∧ s.drawFlag = true) ∧
    (∃ s t : State, s.stepEvent = .next t ∧ s.drawFlag = true) ∧
    (∃ s t : State, s.handle .frameAck = .next t ∧ s.drawFlag = true) :=
  ⟨⟨State.reset.setDrawFlag true, _, rfl, fun f h => (by cases h), rfl⟩, ⟨State.reset.setDrawFlag true, _, rfl, rfl⟩,
   ⟨(State.reset.setPc 0xFFF).setDrawFlag true, _, rfl, rfl⟩, ⟨State.reset.setDrawFlag true, _, rfl, rfl⟩⟩

/-- CellsAreNumberedByRowAndColumn: the last cell; an instruction that is no display instruction. -/
theorem witness_cells :
    (2047 : Fin 2048).val = (31 : Fin 32).val * 64 + (63 : Fin 64).val ∧
    ∃ s t : State, exec .ret s = .next t ∧ Instr.ret ≠ .cls ∧ ∀ x y n, Instr.ret ≠ .drw x y n :=
  ⟨by decide, State.reset, _, rfl, by decide, by intro x y n h; cases h⟩

/-- NoStepDecrementsATimer: a step with the timers running, and a tick with both at 0. -/
theorem witness_timers :
    (∃ s t : State, s.stepEvent = .next t ∧ s.dt = 1 ∧ s.st = 255) ∧
    (∃ s t : State, s.handle .tick = .next t ∧ s.dt = 0 ∧ s.st = 0) :=
  ⟨⟨((State.reset.setPc 0xFFF).setDT 1).setST 255, _, rfl, rfl, rfl⟩, ⟨State.reset, _, rfl, rfl, rfl⟩⟩

/-- KeySkipsTestTheKeyVector: the greatest key number and the least number that is none. -/
theorem witness_keys :
    (((withV [(4, 15)]).getV 4).toNat = 15) ∧ (15 < ((withV [(4, 16)]).getV 4).toNat) := by decide

/-- KeyWaitStoresTheLeastKeyOrWaits, WaitingStepLeavesTheState: one key down, none down, and a wait at the last word. -/
theorem witness_key_wait :
    (State.reset.setInputs 0x8000 0).keys ≠ 0 ∧ State.reset.keys = 0 ∧
    ∃ s : State, s.started = true ∧ s.agenda = [] ∧ s.pc.toNat + 1 = 4095 ∧ s.keys = 0 ∧
      s.fetchWord = encodeXI 0xF 2 0x0A :=
  ⟨by decide, rfl, (State.reset.setPc 0xFFE).storeBytes 0xFFE [0xF2, 0x0A], by decide +kernel⟩

/-- WaitingStepLeavesTheState: the same wait at an announced `step` with no key down, the input field holding one. -/
theorem witness_key_wait_announced :
    ∃ s : State, s.started = true ∧ s.pc.toNat + 1 = 4095 ∧ s.keys = 1 ∧ s.agenda = .step 0 7 :: [.tick] ∧
      s.fetchWord = encodeXI 0xF 2 0x0A :=
  ⟨(((State.reset.setPc 0xFFE).storeBytes 0xFFE [0xF2, 0x0A]).setInputs 1 0).setAgenda announced, by decide +kernel⟩

/-- NoInstructionWritesOutsideItsList. -/
theorem witness_exec_completes : ∃ t : State, exec (.addReg 1 2) State.reset = .next t := ⟨_, rfl⟩

/-- FaultsExactlyWhereTheCheckFails: the check fails of a state, and passes of another. -/
theorem witness_checks : failsCheck .ret (withStack 5 0) ∧ ¬ failsCheck .ret (withStack 5 1) := by
  constructor
  · rfl
  · intro h; exact absurd (show (withStack 5 1).sp.val = 0 from h) (by decide)

/-- FaultsArePrecise: a fault of the fetch and one of decode. -/
theorem witness_faults :
    (∃ s t : State, s.stepEvent = .next t ∧ t.outcome = .fault (.memoryOutOfRange s.pc .fetch 0xFFF 0x1000)) ∧
    (∃ s t : State, s.stepEvent = .next t ∧ t.outcome = .fault (.unknownOpcode 0x200 0) ∧
      ¬ ∃ lo hi, Fault.unknownOpcode 0x200 0 = .memoryOutOfRange s.pc .fetch lo hi) :=
  ⟨⟨State.reset.setPc 0xFFF, _, rfl, rfl⟩,
   ⟨State.reset, _, rfl, rfl, by rintro ⟨lo, hi, h⟩; cases h⟩⟩

/-- InputsMatterOnlyToTheirInstructions: an instruction that reads neither input. -/
theorem witness_no_input :
    (∀ x, Instr.cls ≠ .skp x ∧ Instr.cls ≠ .sknp x ∧ Instr.cls ≠ .ldVxK x) ∧ (∀ x imm, Instr.cls ≠ .rnd x imm) :=
  ⟨fun x => ⟨fun h => (by cases h), fun h => (by cases h), fun h => (by cases h)⟩, fun x imm h => (by cases h)⟩

/-- StaleSlotsAreNeverObserved: two states that differ in every slot, the depth 0; and an instruction other than `CALL`. -/
theorem witness_stale_slots :
    (∃ t : State, (withStack 5 0).agreeOnLive (withStack 7 0) ∧ step (withStack 5 0) = .next t) ∧
    (∃ t : State, exec .ret State.reset = .next t ∧ ∀ addr, Instr.ret ≠ .call addr) :=
  ⟨⟨_, ⟨rfl, fun k h => absurd h (Nat.not_lt_zero _)⟩, rfl⟩, ⟨_, rfl, fun addr h => by cases h⟩⟩

/-- StaleSlotsAreNeverObserved, the clauses on `CALL`, on what is no `RET`, and on `RET` with slots that agree at the top. -/
theorem witness_slot_clauses :
    (∃ t : State, exec (.call 0x300) (withStack 5 15) = .next t ∧ (0 : Fin 16).val ≠ (withStack 5 15).sp.val) ∧
    Instr.call 0 ≠ .ret ∧
    (∀ k : Fin 16, k.val + 1 = (withStack 5 16).sp.val → (Vector.replicate 16 (5 : Word))[k] = (withStack 5 16).slot k) :=
  ⟨⟨_, rfl, by decide⟩, by decide, fun _ _ => rfl⟩

/-- ClsClearsEveryCell: the step clause, at the highest `pc` a fetch is made from. -/
theorem witness_cls_step :
    ∃ s : State, s.started = true ∧ s.agenda = [] ∧ s.pc.toNat + 1 = 4095 ∧ s.fetchWord = 0x00E0 :=
  ⟨(State.reset.setPc 0xFFE).storeBytes 0xFFE [0x00, 0xE0], by decide +kernel⟩

/-- StepKeepsTheInvariant: a state other than reset's that meets the invariant at its bounds, and steps. -/
theorem witness_invariant : ∃ s t : State, s.Inv ∧ s.pc = 0x10FE ∧ s.slot 3 = 4096 ∧ step s = .next t := by
  refine ⟨(withStack 4096 16).setPc 0x10FE, _, ⟨rfl, ⟨by decide, ?_⟩, rfl⟩, rfl, rfl, rfl⟩
  intro k
  show ((Vector.replicate 16 (4096 : Word))[k]).toNat ≤ 4096
  simp

end Sys2Proof.Tests
end

section
/-! SUPPORT. What instructions leave unchanged, piece by piece (spec/10_state.md R22, spec/20_memory.md R59), and what a
`step` event can do. A frame is built one update at a time along the operations an instruction is written with. -/

namespace Sys2Proof.Machine

section

variable {P : Loc → Prop} {s t u : State}

/-! ### Frames: one rule per operation -/

theorem unchangedBut.refl : unchangedBut P s s := fun l _ => by cases l <;> rfl

theorem unchangedBut.setV {r : Reg} {b : Byte} (h : unchangedBut P s t) (hr : P (.reg r)) :
    unchangedBut P s (t.setV r b) := by
  intro l hl
  cases l with
  | reg q =>
    have hq : q ≠ r := fun e => hl (e ▸ hr)
    exact (t.getV_setV_of_ne b hq).trans (h _ hl)
  | _ => exact h _ hl

theorem unchangedBut.setI {w : Word} (h : unchangedBut P s t) (hi : P .index) : unchangedBut P s (t.setI w) := by
  intro l hl
  cases l with
  | index => exact absurd hi hl
  | _ => exact h _ hl

theorem unchangedBut.setPc {w : Word} (h : unchangedBut P s t) (hpc : P .pc) : unchangedBut P s (t.setPc w) := by
  intro l hl
  cases l with
  | pc => exact absurd hpc hl
  | _ => exact h _ hl

theorem unchangedBut.setDT {b : Byte} (h : unchangedBut P s t) (hd : P .delay) : unchangedBut P s (t.setDT b) := by
  intro l hl
  cases l with
  | delay => exact absurd hd hl
  | _ => exact h _ hl

theorem unchangedBut.setST {b : Byte} (h : unchangedBut P s t) (hs : P .sound) : unchangedBut P s (t.setST b) := by
  intro l hl
  cases l with
  | sound => exact absurd hs hl
  | _ => exact h _ hl

theorem unchangedBut.setDrawFlag {b : Bool} (h : unchangedBut P s t) (hf : P .drawFlag) :
    unchangedBut P s (t.setDrawFlag b) := by
  intro l hl
  cases l with
  | drawFlag => exact absurd hf hl
  | _ => exact h _ hl

theorem unchangedBut.setOutcome {o : StepOutcome} (h : unchangedBut P s t) (ho : P .outcome) :
    unchangedBut P s (t.setOutcome o) := by
  intro l hl
  cases l with
  | outcome => exact absurd ho hl
  | _ => exact h _ hl

theorem unchangedBut.clearDisp (h : unchangedBut P s t) (hc : ∀ row col, P (.cell row col)) :
    unchangedBut P s t.clearDisp := by
  intro l hl
  cases l with
  | cell row col => exact absurd (hc row col) hl
  | _ => exact h _ hl

/-- Replacing the stack counts as writing only the slots whose content differs. -/
theorem unchangedBut.setStack {slots : Vector Word 16} {depth : Fin 17} (h : unchangedBut P s t) (hd : P .depth)
    (hs : ∀ k : Fin 16, slots[k] = t.slot k ∨ P (.slot k)) : unchangedBut P s (t.setStack slots depth) := by
  intro l hl
  cases l with
  | depth => exact absurd hd hl
  | slot k => exact ((hs k).resolve_right hl).trans (h _ hl)
  | _ => exact h _ hl

theorem unchangedBut.storeBytes {a : Nat} {bs : List Byte} (h : unchangedBut P s t)
    (hb : ∀ q, a ≤ q → q < a + bs.length → P (.byte q)) : unchangedBut P s (t.storeBytes a bs) := by
  intro l hl
  cases l with
  | byte q =>
    have hq : q < a ∨ a + bs.length ≤ q := by
      by_contra hin
      exact hl (hb q (by omega) (by omega))
    exact (Memory.read_writeBytes_outside t.mem a bs hq).trans (h _ hl)
  | _ => exact h _ hl

theorem unchangedBut.aluWithFlag {x : Reg} {flag : State → Bool} {result : State → Byte} (h : unchangedBut P s t)
    (hx : P (.reg x)) (hf : P (.reg vf)) : unchangedBut P s (t.aluWithFlag x flag result) :=
  ((h.setV hf).setV hf).setV hx

theorem unchangedBut.loadBlock {n : Nat} (h : unchangedBut P s t) (hr : ∀ k, k < n → P (.reg (Fin.ofNat 16 k))) :
    unchangedBut P s (t.loadBlock n) := by
  induction n with
  | zero => exact h
  | succ n ih => exact (ih fun k hk => hr k (by omega)).setV (hr n (by omega))

theorem unchangedBut.drawRows {x y : Reg} {rows : Nat} (h : unchangedBut P s t) (hf : P (.reg vf))
    (hc : ∀ row col, P (.cell row col)) : unchangedBut P s (t.drawRows x y rows) := by
  intro l hl
  obtain ⟨v, d, hrows⟩ := t.drawRows_eq x y rows
  cases l with
  | reg q =>
    have hq : q ≠ vf := fun e => hl (e ▸ hf)
    exact (t.getV_drawRows x y rows q hq).trans (h _ hl)
  | cell row col => exact absurd (hc row col) hl
  | _ => rw [hrows]; exact h _ hl

/-! ### Frames of results -/

/-- The result is a next state, and it differs from `s` in the listed pieces at most. -/
def Framed (P : Loc → Prop) (s : State) (r : Result) : Prop := ∃ t, r = .next t ∧ unchangedBut P s t

theorem unchangedBut.complete (h : unchangedBut P s t) (ho : P .outcome) : Framed P s t.complete :=
  ⟨_, rfl, h.setOutcome ho⟩

theorem unchangedBut.raise {f : Fault} (h : unchangedBut P s t) (ho : P .outcome) : Framed P s (t.raise f) :=
  ⟨_, rfl, h.setOutcome ho⟩

theorem Framed.checkRange {access : Access} {lo count : Nat} {body : Result} (h : Framed P s body) (ho : P .outcome) :
    Framed P s (s.checkRange access lo count body) := by
  unfold State.checkRange
  split
  · exact unchangedBut.refl.raise ho
  · exact h

theorem Framed.checkKey {x : Reg} {body : Result} (h : Framed P s body) (ho : P .outcome) :
    Framed P s (s.checkKey x body) := by
  unfold State.checkKey
  split
  · exact unchangedBut.refl.raise ho
  · exact h

theorem framed_skipIf {taken : Bool} (ho : P .outcome) (hpc : P .pc) : Framed P s (s.skipIf taken) := by
  rw [State.skipIf_eq]
  exact (unchangedBut.refl.setPc hpc).complete ho

theorem framed_execRet (ho : P .outcome) (hpc : P .pc) (hd : P .depth) : Framed P s (execRet s) := by
  unfold execRet
  by_cases h : 0 < s.sp.val
  · rw [s.pop_of_pos h (by omega)]
    exact ((unchangedBut.refl.setStack hd fun _ => .inl rfl).setPc hpc).complete ho
  · rw [s.pop_empty (by omega)]
    exact unchangedBut.refl.raise ho

/-- `CALL` writes the slot at the depth, and no other. -/
theorem framed_execCall {addr : Addr} (ho : P .outcome) (hpc : P .pc) (hd : P .depth)
    (hs : ∀ k : Fin 16, k.val = s.sp.val → P (.slot k)) : Framed P s (execCall addr s) := by
  unfold execCall
  by_cases h : s.sp.val < 16
  · rw [s.push_of_lt s.pc h]
    refine ((unchangedBut.refl.setStack hd fun k => ?_).setPc hpc).complete ho
    by_cases hk : k.val = s.sp.val
    · exact .inr (hs k hk)
    · exact .inl (Vector.getElem_set_ne h k.isLt (Ne.symm hk))
  · rw [s.push_full s.pc (by omega)]
    exact unchangedBut.refl.raise ho

theorem framed_execLdVxK {x : Reg} (ho : P .outcome) (hpc : P .pc) (hx : P (.reg x)) : Framed P s (execLdVxK x s) := by
  unfold execLdVxK
  split
  · exact ⟨_, rfl, (unchangedBut.refl.setPc hpc).setOutcome ho⟩
  · exact (unchangedBut.refl.setV hx).complete ho

/-- Every instruction answers a next state and writes no piece of state outside its list. -/
theorem exec_framed (i : Instr) (s : State) : Framed (mayWrite i s) s (exec i s) := by
  have ho : mayWrite i s .outcome := .inl rfl
  cases i
  case cls => exact ((unchangedBut.refl.clearDisp fun row col => .inr (.inl ⟨row, col, rfl⟩)).setDrawFlag
    (.inr (.inr rfl))).complete ho
  case ret => exact framed_execRet ho (.inr (.inl rfl)) (.inr (.inr rfl))
  case jp | jpV0 => exact (unchangedBut.refl.setPc (.inr rfl)).complete ho
  case call =>
    refine framed_execCall ho (.inr (.inl rfl)) (.inr (.inr (.inl rfl))) fun k hk => ?_
    exact .inr (.inr (.inr ⟨k, rfl, hk⟩))
  case seImm | sneImm | seReg | sneReg => exact framed_skipIf ho (.inr rfl)
  case skp | sknp => exact (framed_skipIf ho (.inr rfl)).checkKey ho
  case ldImm | addImm | ldReg | orReg | andReg | xorReg | rnd | ldVxDT =>
    exact (unchangedBut.refl.setV (.inr rfl)).complete ho
  case addReg | subReg | shr | subn | shl =>
    exact (unchangedBut.refl.aluWithFlag (.inr (.inl rfl)) (.inr (.inr rfl))).complete ho
  case ldI | addI | ldF => exact (unchangedBut.refl.setI (.inr rfl)).complete ho
  case drw x y n =>
    have hf : mayWrite (.drw x y n) s (.reg vf) := .inr (.inl rfl)
    exact ((((unchangedBut.refl.setV hf).drawRows hf fun row col => .inr (.inr (.inl ⟨row, col, rfl⟩))).setDrawFlag
      (.inr (.inr (.inr rfl)))).complete ho).checkRange ho
  case ldVxK => exact framed_execLdVxK ho (.inr (.inr rfl)) (.inr (.inl rfl))
  case ldDTVx => exact (unchangedBut.refl.setDT (.inr rfl)).complete ho
  case ldSTVx => exact (unchangedBut.refl.setST (.inr rfl)).complete ho
  case ldB =>
    refine ((unchangedBut.refl.storeBytes fun q hlo hhi => ?_).complete ho).checkRange ho
    exact .inr ⟨q, rfl, hlo, hhi⟩
  case ldMemVx x =>
    refine ((unchangedBut.refl.storeBytes fun q hlo hhi => ?_).complete ho).checkRange ho
    exact .inr ⟨q, rfl, hlo, s.length_regBlock x ▸ hhi⟩
  case ldVxMem x =>
    refine ((unchangedBut.refl.loadBlock fun k hk => ?_).complete ho).checkRange ho
    exact .inr ⟨_, rfl, (Nat.mod_le k 16).trans (Nat.lt_succ_iff.mp hk)⟩

theorem exec_frame {i : Instr} (h : exec i s = .next t) : unchangedBut (mayWrite i s) s t := by
  obtain ⟨t', h', hframe⟩ := exec_framed i s
  cases h.symm.trans h'
  exact hframe

/-! ### The writers of the screen and of the timers -/

/-- `CLS` and `DRW`, the two instructions that write cells and the draw flag (R32, R33). -/
def Draws (i : Instr) : Prop := i = .cls ∨ ∃ x y n, i = .drw x y n

theorem not_draws {i : Instr} (hcls : i ≠ .cls) (hdrw : ∀ x y n, i ≠ .drw x y n) : ¬ Draws i := by
  rintro (h | ⟨x, y, n, h⟩)
  · exact hcls h
  · exact hdrw x y n h

theorem mayWrite_drawFlag {i : Instr} : mayWrite i s .drawFlag ↔ Draws i := by
  cases i <;> simp [mayWrite, Loc.inBytes, Draws]

theorem mayWrite_cell {i : Instr} {row : Fin 32} {col : Fin 64} : mayWrite i s (.cell row col) ↔ Draws i := by
  cases i <;> simp [mayWrite, Loc.inBytes, Draws]

theorem mayWrite_delay {i : Instr} : mayWrite i s .delay ↔ ∃ x, i = .ldDTVx x := by
  cases i <;> simp [mayWrite, Loc.inBytes]

theorem mayWrite_sound {i : Instr} : mayWrite i s .sound ↔ ∃ x, i = .ldSTVx x := by
  cases i <;> simp [mayWrite, Loc.inBytes]

theorem exec_drawFlag {i : Instr} (h : exec i s = .next t) (hi : ¬ Draws i) : t.drawFlag = s.drawFlag :=
  exec_frame h .drawFlag fun hw => hi (mayWrite_drawFlag.mp hw)

theorem exec_cellAt {i : Instr} (h : exec i s = .next t) (hi : ¬ Draws i) (c : Fin 2048) :
    t.cellAt c = s.cellAt c :=
  exec_frame h (.cell _ _) fun hw => hi (mayWrite_cell.mp hw)

/-- An instruction loads `DT` or leaves it. -/
theorem exec_dt {i : Instr} (h : exec i s = .next t) : t.dt = s.dt ∨ ∃ x, i = .ldDTVx x ∧ t.dt = s.getV x := by
  by_cases hw : mayWrite i s .delay
  · obtain ⟨x, rfl⟩ := mayWrite_delay.mp hw
    cases h
    exact .inr ⟨x, rfl, rfl⟩
  · exact .inl (exec_frame h .delay hw)

/-- An instruction loads `ST` or leaves it. -/
theorem exec_st {i : Instr} (h : exec i s = .next t) : t.st = s.st ∨ ∃ x, i = .ldSTVx x ∧ t.st = s.getV x := by
  by_cases hw : mayWrite i s .sound
  · obtain ⟨x, rfl⟩ := mayWrite_sound.mp hw
    cases h
    exact .inr ⟨x, rfl, rfl⟩
  · exact .inl (exec_frame h .sound hw)

/-! ### What an event can do -/

theorem State.whenStarted_next {body : Result} (h : s.whenStarted body = .next t) : body = .next t := by
  unfold State.whenStarted at h
  split at h
  · exact h
  · cases h

/-- A step reports a fault of the fetch or of decode, which moves `pc` at most, or runs the decoded instruction with
`pc` two further (R101). -/
theorem State.runInstruction_cases (h : s.runInstruction = .next t) :
    (∃ w f, t = (s.setPc w).setOutcome (.fault f)) ∨
    ∃ i, decodeWord s.fetchWord = .ok i ∧ exec i (s.setPc (s.pc + 2)) = .next t := by
  by_cases hpc : 4095 < s.pc.toNat + 1
  · cases (s.runInstruction_fetchFault hpc).symm.trans h
    exact .inl ⟨s.pc, _, rfl⟩
  · have hpc : s.pc.toNat + 1 ≤ 4095 := by omega
    cases hd : decodeWord s.fetchWord with
    | error e =>
      cases (s.runInstruction_unknown hpc hd).symm.trans h
      exact .inl ⟨_, _, rfl⟩
    | ok i => exact .inr ⟨i, rfl, (s.runInstruction_exec hpc hd).symm.trans h⟩

/-- A `step` event is one run of an instruction, or a fault that comes before it, and then the host's turn. -/
theorem State.stepEvent_cases (h : s.stepEvent = .next u) :
    ∃ t, u = t.hostTurn ∧
      ((∃ w f, t = (s.setPc w).setOutcome (.fault f)) ∨
        ∃ i, decodeWord s.fetchWord = .ok i ∧ exec i (s.setPc (s.pc + 2)) = .next t) := by
  have h := State.whenStarted_next h
  cases hr : s.runInstruction with
  | next t => rw [hr] at h; cases h; exact ⟨t, rfl, State.runInstruction_cases hr⟩
  | fault e => rw [hr] at h; cases h
  | refused r => rw [hr] at h; cases h

theorem stepEvent_dt (h : s.stepEvent = .next u) :
    u.dt = s.dt ∨ ∃ x, decodeWord s.fetchWord = .ok (.ldDTVx x) ∧ u.dt = s.getV x := by
  obtain ⟨t, rfl, ⟨w, f, rfl⟩ | ⟨i, hd, hexec⟩⟩ := State.stepEvent_cases h
  · exact .inl rfl
  · rcases exec_dt hexec with ht | ⟨x, rfl, ht⟩
    · exact .inl ht
    · exact .inr ⟨x, hd, ht⟩

theorem stepEvent_st (h : s.stepEvent = .next u) :
    u.st = s.st ∨ ∃ x, decodeWord s.fetchWord = .ok (.ldSTVx x) ∧ u.st = s.getV x := by
  obtain ⟨t, rfl, ⟨w, f, rfl⟩ | ⟨i, hd, hexec⟩⟩ := State.stepEvent_cases h
  · exact .inl rfl
  · rcases exec_st hexec with ht | ⟨x, rfl, ht⟩
    · exact .inl ht
    · exact .inr ⟨x, hd, ht⟩

/-! ### The screen is read by `DRW` alone -/

/-- Change the display and the draw flag, each by a function of its own. -/
def State.mapScreen (g : Display → Display) (k : Bool → Bool) (s : State) : State :=
  { s with disp := g s.disp, drawFlag := k s.drawFlag }

theorem State.setDisp_eq_mapScreen (d : Display) : s.setDisp d = s.mapScreen (fun _ => d) id := rfl

theorem State.setDrawFlag_eq_mapScreen (b : Bool) : s.setDrawFlag b = s.mapScreen id (fun _ => b) := rfl

theorem mapNext_mapNext (f g : State → State) (r : Result) : mapNext f (mapNext g r) = mapNext (f ∘ g) r := by
  cases r <;> rfl

variable (g : Display → Display) (k : Bool → Bool)

theorem State.checkRange_mapScreen {access : Access} {lo count : Nat} {body body' : Result}
    (h : body' = mapNext (State.mapScreen g k) body) :
    (s.mapScreen g k).checkRange access lo count body' =
      mapNext (State.mapScreen g k) (s.checkRange access lo count body) := by
  subst h
  unfold State.checkRange
  split <;> rfl

theorem State.skipIf_mapScreen (taken : Bool) :
    (s.mapScreen g k).skipIf taken = mapNext (State.mapScreen g k) (s.skipIf taken) := by
  cases taken <;> rfl

/-- The key skips: their check and their skip, on whichever condition. -/
theorem State.checkKey_skipIf_mapScreen (x : Reg) (taken : Bool) :
    (s.mapScreen g k).checkKey x ((s.mapScreen g k).skipIf taken) =
      mapNext (State.mapScreen g k) (s.checkKey x (s.skipIf taken)) := by
  rw [State.skipIf_mapScreen]
  by_cases h : (s.getV x).toNat ≤ 15
  · rw [s.checkKey_pass h]
    exact State.checkKey_pass _ h
  · rw [s.checkKey_fail (by omega)]
    exact State.checkKey_fail _ (Nat.lt_of_not_le h)

theorem State.pop_mapScreen : (s.mapScreen g k).pop = s.pop.map (Prod.map id (State.mapScreen g k)) := by
  by_cases h : 0 < s.sp.val
  · have htop : s.sp.val - 1 < 16 := by omega
    rw [s.pop_of_pos h htop]
    exact (s.mapScreen g k).pop_of_pos h htop
  · rw [s.pop_empty (by omega)]
    exact (s.mapScreen g k).pop_empty (Nat.eq_zero_of_not_pos h)

theorem State.push_mapScreen (ret : Word) :
    (s.mapScreen g k).push ret = (s.push ret).map (State.mapScreen g k) := by
  by_cases h : s.sp.val < 16
  · rw [s.push_of_lt ret h]
    exact (s.mapScreen g k).push_of_lt ret h
  · have hfull : s.sp.val = 16 := by omega
    rw [s.push_full ret hfull]
    exact (s.mapScreen g k).push_full ret hfull

theorem State.loadBlock_mapScreen (n : Nat) :
    (s.mapScreen g k).loadBlock n = (s.loadBlock n).mapScreen g k := by
  induction n with
  | zero => rfl
  | succ n ih => simp only [State.loadBlock, ih]; rfl

theorem execRet_mapScreen : execRet (s.mapScreen g k) = mapNext (State.mapScreen g k) (execRet s) := by
  unfold execRet
  rw [State.pop_mapScreen]
  cases s.pop <;> rfl

theorem execCall_mapScreen (addr : Addr) :
    execCall addr (s.mapScreen g k) = mapNext (State.mapScreen g k) (execCall addr s) := by
  have hpush : (s.mapScreen g k).push (s.mapScreen g k).pc = (s.push s.pc).map (State.mapScreen g k) :=
    State.push_mapScreen g k s.pc
  unfold execCall
  rw [hpush]
  cases s.push s.pc <;> rfl

theorem execLdVxK_mapScreen (x : Reg) :
    execLdVxK x (s.mapScreen g k) = mapNext (State.mapScreen g k) (execLdVxK x s) := by
  have hkey : (s.mapScreen g k).lowestKey = s.lowestKey := rfl
  unfold execLdVxK
  rw [hkey]
  cases s.lowestKey <;> rfl

/-- An instruction that draws nothing neither reads nor writes the screen: it commutes with any change of it. -/
theorem exec_mapScreen {i : Instr} (hi : ¬ Draws i) :
    exec i (s.mapScreen g k) = mapNext (State.mapScreen g k) (exec i s) := by
  cases i
  case cls => exact absurd (.inl rfl) hi
  case drw x y n => exact absurd (.inr ⟨x, y, n, rfl⟩) hi
  case ret => exact execRet_mapScreen g k
  case call addr => exact execCall_mapScreen g k addr
  case seImm | sneImm | seReg | sneReg => exact State.skipIf_mapScreen g k _
  case skp x | sknp x => exact State.checkKey_skipIf_mapScreen g k x _
  case ldVxK x => exact execLdVxK_mapScreen g k x
  case ldB | ldMemVx => exact State.checkRange_mapScreen g k rfl
  case ldVxMem x =>
    exact State.checkRange_mapScreen g k (congrArg State.complete (State.loadBlock_mapScreen g k _))
  case jp | jpV0 | ldImm | addImm | ldReg | orReg | andReg | xorReg | addReg | subReg | shr | subn | shl | rnd | ldI
    | addI | ldF | ldVxDT | ldDTVx | ldSTVx => rfl

/-! ### `DRW` and the draw flag -/

/-- `DRW` completes with the sprite drawn and the flag set, or reports a fault and does nothing else. -/
theorem exec_drw_cases (x y : Reg) (n : Fin 16) (s : State) :
    exec (.drw x y n) s = .next ((((s.setV vf 0).drawRows x y n.val).setDrawFlag true).setOutcome .ok) ∨
    ∃ f, exec (.drw x y n) s = .next (s.setOutcome (.fault f)) := by
  simp only [exec, execDrw, State.checkRange]
  split
  · exact .inr ⟨_, rfl⟩
  · exact .inl rfl

theorem exec_draws {i : Instr} (hi : Draws i) (h : exec i s = .next t) :
    t.drawFlag = true ∨ ∃ f, t = s.setOutcome (.fault f) := by
  rcases hi with rfl | ⟨x, y, n, rfl⟩
  · cases h
    exact .inl rfl
  · rcases exec_drw_cases x y n s with h' | ⟨f, h'⟩
    · cases h'.symm.trans h
      exact .inl rfl
    · cases h'.symm.trans h
      exact .inr ⟨f, rfl⟩

/-- No instruction clears the draw flag. -/
theorem exec_keeps_drawFlag {i : Instr} (h : exec i s = .next t) (hs : s.drawFlag = true) : t.drawFlag = true := by
  by_cases hi : Draws i
  · rcases exec_draws hi h with ht | ⟨f, rfl⟩
    · exact ht
    · exact hs
  · exact (exec_drawFlag h hi).trans hs

theorem stepEvent_keeps_drawFlag (h : s.stepEvent = .next u) (hs : s.drawFlag = true) : u.drawFlag = true := by
  obtain ⟨t, rfl, ⟨w, f, rfl⟩ | ⟨i, -, hexec⟩⟩ := State.stepEvent_cases h
  · exact hs
  · exact (exec_keeps_drawFlag hexec hs : t.drawFlag = true)

variable (b : Bool) (x y : Reg)

/-- A 1-bit on a dark cell toggles it. -/
theorem State.drawDot_dark {row col : Nat} (h : s.cell (s.spriteRow y row) (s.spriteCol x col) = false) :
    s.drawDot x y row col = s.flipCell (s.spriteRow y row) (s.spriteCol x col) := by
  simp [State.drawDot, h]

/-- A 1-bit on a lit cell toggles it and records the collision. -/
theorem State.drawDot_lit {row col : Nat} (h : s.cell (s.spriteRow y row) (s.spriteCol x col) = true) :
    s.drawDot x y row col = (s.setV vf 1).flipCell (s.spriteRow y row) (s.spriteCol x col) := by
  simp [State.drawDot, h]

theorem State.drawDot_setDrawFlag (row col : Nat) :
    (s.setDrawFlag b).drawDot x y row col = (s.drawDot x y row col).setDrawFlag b := by
  cases h : s.cell (s.spriteRow y row) (s.spriteCol x col) with
  | false => rw [State.drawDot_dark x y h]; exact State.drawDot_dark x y h
  | true => rw [State.drawDot_lit x y h]; exact State.drawDot_lit x y h

theorem State.drawCols_setDrawFlag (row : Nat) (bits : Byte) (cols : Nat) :
    (s.setDrawFlag b).drawCols x y row bits cols = (s.drawCols x y row bits cols).setDrawFlag b := by
  induction cols with
  | zero => rfl
  | succ col ih =>
    simp only [State.drawCols, ih, State.drawDot_setDrawFlag]
    split <;> rfl

theorem State.drawRows_setDrawFlag (rows : Nat) :
    (s.setDrawFlag b).drawRows x y rows = (s.drawRows x y rows).setDrawFlag b := by
  induction rows with
  | zero => rfl
  | succ row ih =>
    simp only [State.drawRows, ih, State.drawCols_setDrawFlag]
    rfl

theorem State.checkRange_setDrawFlag {access : Access} {lo count : Nat} {body body' : Result}
    (h : mapNext (fun t => t.setDrawFlag false) body' = mapNext (fun t => t.setDrawFlag false) body) :
    mapNext (fun t => t.setDrawFlag false) ((s.setDrawFlag b).checkRange access lo count body') =
      mapNext (fun t => t.setDrawFlag false) (s.checkRange access lo count body) := by
  unfold State.checkRange
  split
  · rfl
  · exact h

/-- `DRW` does not read the draw flag: apart from the flag itself it answers alike whatever the flag is. -/
theorem exec_drw_setDrawFlag (n : Fin 16) :
    mapNext (fun t => t.setDrawFlag false) (exec (.drw x y n) (s.setDrawFlag b)) =
      mapNext (fun t => t.setDrawFlag false) (exec (.drw x y n) s) := by
  have hrows : ((s.setDrawFlag b).setV vf 0).drawRows x y n.val = ((s.setV vf 0).drawRows x y n.val).setDrawFlag b :=
    (s.setV vf 0).drawRows_setDrawFlag b x y n.val
  simp only [exec, execDrw, hrows]
  exact State.checkRange_setDrawFlag b rfl

/-- No instruction reads the draw flag. -/
theorem exec_setDrawFlag (i : Instr) (s : State) :
    mapNext (fun t => t.setDrawFlag false) (exec i (s.setDrawFlag b)) =
      mapNext (fun t => t.setDrawFlag false) (exec i s) := by
  by_cases hi : Draws i
  · rcases hi with rfl | ⟨x, y, n, rfl⟩
    · rfl
    · exact exec_drw_setDrawFlag b x y n
  · rw [State.setDrawFlag_eq_mapScreen, exec_mapScreen _ _ hi, mapNext_mapNext]
    rfl

/-- No instruction but `DRW` reads the display. -/
theorem exec_setDisp {i : Instr} (hdrw : ∀ x y n, i ≠ .drw x y n) (s : State) (d d' : Display) :
    mapNext (fun t => t.setDisp d') (exec i (s.setDisp d)) = mapNext (fun t => t.setDisp d') (exec i s) := by
  by_cases hcls : i = .cls
  · subst hcls
    rfl
  · rw [State.setDisp_eq_mapScreen, exec_mapScreen _ _ (not_draws hcls hdrw), mapNext_mapNext]
    rfl

end

/-! ### The statements -/

/-- Settles O43: the writers of the flag by the frame of `exec` and the outcomes of `DRW`; that none reads it, by
commuting every other instruction with a change of the flag. -/
theorem drawFlagIsSetByDrawsAndClearedByTheHost : Obligations.DrawFlagIsSetByDrawsAndClearedByTheHost := by
  refine ⟨fun i s t h => ⟨fun hi hok => ?_, fun hcls hdrw => ?_, exec_keeps_drawFlag h⟩,
    fun s t => stepEvent_keeps_drawFlag, fun s t h => ?_, fun i s b => exec_setDrawFlag b i s⟩
  · rcases exec_draws hi h with ht | ⟨f, rfl⟩
    · exact ht
    · exact absurd rfl (hok f)
  · exact exec_drawFlag h (not_draws hcls hdrw)
  · cases State.whenStarted_next h
    rfl

/-- Settles O44: the index by the arithmetic of rows and columns, the writers by the frame of `exec`, the only reader by
commuting every other instruction with a change of the display. -/
theorem cellsAreNumberedByRowAndColumn : Obligations.CellsAreNumberedByRowAndColumn := by
  refine ⟨fun s row col c hc => ?_, fun i s t h hcls hdrw => exec_cellAt h (not_draws hcls hdrw),
    fun i s d d' hdrw => exec_setDisp hdrw s d d'⟩
  obtain ⟨c, hlt⟩ := c
  subst hc
  exact s.cellAt_index row col hlt

/-- Settles O46: a step's frame on the timers, instruction by instruction, and the floor of the decrement. -/
theorem noStepDecrementsATimer : Obligations.NoStepDecrementsATimer := by
  refine ⟨fun s t h => ⟨stepEvent_dt h, stepEvent_st h⟩, fun s t h => ?_⟩
  cases State.whenStarted_next h
  exact ⟨fun h0 => congrArg decrement h0, fun h0 => congrArg decrement h0⟩

end Sys2Proof.Machine
end

section
/-! PROOFS of the host's events but `step` and `reset`: what `tick` and `frame_ack` write and leave unchanged
(spec/40_engine_step.md R106, R107). -/

namespace Sys2Proof.Machine

/-- Once started, `tick` is answered with the two timer writes (R106). -/
theorem State.handle_tick {s : State} (h : s.started = true) :
    s.handle .tick = .next ((s.setDT (decrement s.dt)).setST (decrement s.st)) :=
  State.whenStarted_of_started s h

/-- Once started, `frame_ack` is answered with the one write of the draw flag (R107). -/
theorem State.handle_frameAck {s : State} (h : s.started = true) :
    s.handle .frameAck = .next (s.setDrawFlag false) :=
  State.whenStarted_of_started s h

/-- Settles O12: each timer by the floor of the decrement, the rest by the frames of the two timer writes. -/
theorem tickDecrementsBothTimers : Obligations.TickDecrementsBothTimers := by
  intro s hs
  refine ⟨_, State.handle_tick hs, ?delay, ?sound, ?frame⟩
  case delay => exact toNat_decrement s.dt
  case sound => exact toNat_decrement s.st
  case frame => exact (unchangedBut.refl.setDT (.inl rfl)).setST (.inr rfl)

/-- Settles O13: the flag is written `false`, the rest by the frame of that write. -/
theorem frameAckClearsTheDrawFlag : Obligations.FrameAckClearsTheDrawFlag := by
  intro s hs
  exact ⟨_, State.handle_frameAck hs, rfl, unchangedBut.refl.setDrawFlag rfl⟩

end Sys2Proof.Machine
end

section
/-! SUPPORT. The machine's step where its next event is a `step`: whatever inputs come with the event, the core runs the
decoded instruction and the host has its turn (spec/40_engine_step.md R101, R105). -/

namespace Sys2Proof.Machine

variable {s : State}

/-- Announced or not, the next event is the core's `step` event under some inputs, with some agenda left (log 5). -/
theorem step_of_stepNext (h : s.stepNext) :
    ∃ keys rnd rest, step s = ((s.setAgenda rest).setInputs keys rnd).stepEvent := by
  rcases h with hnil | ⟨keys, rnd, rest, hcons⟩
  · exact ⟨s.keys, s.rnd, s.agenda, step_of_nil s hnil⟩
  · exact ⟨keys, rnd, rest, step_of_cons s hcons⟩

/-- Once started, the `step` event at a word that decodes is that instruction with `pc` two further, and then the host's
turn. -/
theorem State.stepEvent_exec {i : Instr} (hs : s.started = true) (hpc : s.pc.toNat + 1 ≤ 4095)
    (hd : decodeWord s.fetchWord = .ok i) :
    s.stepEvent = mapNext State.hostTurn (exec i (s.setPc (s.pc + 2))) :=
  calc s.stepEvent
    _ = mapNext State.hostTurn s.runInstruction := s.whenStarted_of_started hs
    _ = mapNext State.hostTurn (exec i (s.setPc (s.pc + 2))) := congrArg _ (s.runInstruction_exec hpc hd)

end Sys2Proof.Machine
end

section
/-! PROOFS of the display instructions: what `CLS` writes and leaves unchanged (spec/44_display.md R171). -/

namespace Sys2Proof.Machine

/-- `CLS` always completes, and its three writes are the cells, the draw flag and the outcome. -/
theorem exec_cls (s : State) : exec .cls s = .next ((s.clearDisp.setDrawFlag true).setOutcome .ok) := rfl

theorem State.cellAt_clearDisp (s : State) (c : Fin 2048) : s.clearDisp.cellAt c = false := s.cell_clearDisp _ _

theorem decodeWord_cls : decodeWord 0x00E0 = .ok .cls := by decide

/-- Settles O39: the three writes of `CLS`, the rest by their frames; the step by running `CLS` from the advanced `pc`,
after which the host's turn touches none of the pieces named. -/
theorem clsClearsEveryCell : Obligations.ClsClearsEveryCell := by
  refine ⟨decodeWord_cls, fun s => ⟨_, exec_cls s, rfl, s.cellAt_clearDisp, rfl, ?frame, fun hs hnext hpc hw => ?step⟩⟩
  case frame =>
    exact ((unchangedBut.refl.clearDisp fun row col => .inl ⟨row, col, rfl⟩).setDrawFlag (.inr (.inl rfl))).setOutcome
      (.inr (.inr rfl))
  case step =>
    obtain ⟨keys, rnd, rest, hstep⟩ := step_of_stepNext hnext
    have hd : decodeWord s.fetchWord = .ok .cls := hw ▸ decodeWord_cls
    have hrun := State.stepEvent_exec (s := (s.setAgenda rest).setInputs keys rnd) hs hpc hd
    exact ⟨_, hstep.trans hrun, s.cellAt_clearDisp, rfl, rfl, rfl⟩

end Sys2Proof.Machine
end

section
/-! PROOFS of the report of an unknown word (spec/60_exceptions.md R191): which pieces of the state the report and the
host's turn after it touch. -/

namespace Sys2Proof.Machine

/-! ### Frames of the host's moves -/

section

variable {P : Loc → Prop} {s t : State}

theorem unchangedBut.setInputs {keys : Word} {rnd : Byte} (h : unchangedBut P s t) (hk : P .keys) (hr : P .rnd) :
    unchangedBut P s (t.setInputs keys rnd) := by
  intro l hl
  cases l with
  | keys => exact absurd hk hl
  | rnd => exact absurd hr hl
  | _ => exact h _ hl

theorem unchangedBut.setAgenda {events : List HostEvent} (h : unchangedBut P s t) (ha : P .agenda) :
    unchangedBut P s (t.setAgenda events) := by
  intro l hl
  cases l with
  | agenda => exact absurd ha hl
  | _ => exact h _ hl

theorem unchangedBut.setSamples {n : Nat} (h : unchangedBut P s t) (hn : P .samples) :
    unchangedBut P s (t.setSamples n) := by
  intro l hl
  cases l with
  | samples => exact absurd hn hl
  | _ => exact h _ hl

/-- The host announces what it likes and presents the inputs it likes: no piece of the core is touched. -/
theorem unchangedBut.announce {keys : Word} {rnd : Byte} {events : List HostEvent} (h : unchangedBut P s t)
    (hhost : ∀ l : Loc, l.isHost → P l) : unchangedBut P s ((t.setAgenda events).setInputs keys rnd) :=
  (h.setAgenda (hhost _ (.inr (.inr (.inr rfl))))).setInputs (hhost _ (.inl rfl)) (hhost _ (.inr (.inl rfl)))

theorem unchangedBut.hostTurn (h : unchangedBut P s t) (hhost : ∀ l : Loc, l.isHost → P l) :
    unchangedBut P s t.hostTurn :=
  (h.announce hhost).setSamples (hhost _ (.inr (.inr (.inl rfl))))

end

/-! ### The report -/

section

variable {s : State} {e : DecodeError}

/-- Once started, the `step` event at an unknown word is the report with `pc` two further, and then the host's turn. -/
theorem State.stepEvent_unknown (hs : s.started = true) (hpc : s.pc.toNat + 1 ≤ 4095)
    (hd : decodeWord s.fetchWord = .error e) :
    s.stepEvent =
      .next ((s.setPc (s.pc + 2)).setOutcome (.fault (.unknownOpcode s.pc s.fetchWord))).hostTurn :=
  calc s.stepEvent
    _ = mapNext State.hostTurn s.runInstruction := s.whenStarted_of_started hs
    _ = _ := congrArg _ (s.runInstruction_unknown hpc hd)

/-- The `step` event reports an unknown word under any inputs and with any agenda left, since the word and its address
do not depend on them. -/
theorem State.stepEvent_reports_unknown (hs : s.started = true) (hpc : s.pc.toNat + 1 ≤ 4095)
    (hd : decodeWord s.fetchWord = .error e) (keys : Word) (rnd : Byte) (rest : List HostEvent) :
    ∃ t, ((s.setAgenda rest).setInputs keys rnd).stepEvent = .next t ∧ t.pc = s.pc + 2 ∧
      t.outcome = .fault (.unknownOpcode s.pc s.fetchWord) ∧
      unchangedBut (fun l => l = .pc ∨ l = .outcome ∨ l.isHost) s t := by
  refine ⟨_, State.stepEvent_unknown (s := (s.setAgenda rest).setInputs keys rnd) hs hpc hd, rfl, rfl, ?frame⟩
  have hhost : ∀ l : Loc, l.isHost → l = .pc ∨ l = .outcome ∨ l.isHost := fun _ h => .inr (.inr h)
  exact (((unchangedBut.refl.announce hhost).setPc (.inl rfl)).setOutcome (.inr (.inl rfl))).hostTurn hhost

end

/-- After `reset` with an empty image the program region is zero, its first word among it (R221). -/
theorem State.fetchWord_reboot_nil (s : State) : (s.reboot []).fetchWord = 0x0000 := by
  have hzero : ∀ a, 0x200 ≤ a → Memory.read (bootMemory []) a = 0 := fun a ha =>
    (read_bootMemory_other (image := []) a (.inr ha)).trans (Memory.unlisted_zero (.inr (by omega)))
  calc (s.reboot []).fetchWord
    _ = wordOfBytes (Memory.read (bootMemory []) 0x200) (Memory.read (bootMemory []) 0x201) := rfl
    _ = wordOfBytes 0 0 := by rw [hzero 0x200 (by omega), hzero 0x201 (by omega)]
    _ = 0x0000 := by decide

theorem decodeWord_zero : decodeWord 0x0000 = .error .unknownClass0 := by decide

/-- Settles O7: the report writes `pc` and the outcome, whatever inputs the step comes with, and the host's moves around
it touch no piece of the core; the example by the zero word that an empty image leaves at `0x200`. -/
theorem unknownWordIsReported : Obligations.UnknownWordIsReported := by
  refine ⟨fun s e hs hpc hd => ⟨State.stepEvent_reports_unknown hs hpc hd s.keys s.rnd s.agenda, fun hnext => ?machine⟩,
    fun s => ?afterReset⟩
  case machine =>
    obtain ⟨keys, rnd, rest, hstep⟩ := step_of_stepNext hnext
    rw [hstep]
    exact State.stepEvent_reports_unknown hs hpc hd keys rnd rest
  case afterReset =>
    have hw := s.fetchWord_reboot_nil
    have hpc : (s.reboot []).pc.toNat + 1 ≤ 4095 := show (0x200 : Word).toNat + 1 ≤ 4095 by decide
    have hstep := State.stepEvent_unknown (s := s.reboot []) rfl hpc (hw ▸ decodeWord_zero)
    rw [hw] at hstep
    exact ⟨_, _, rfl, hstep, rfl, rfl⟩

end Sys2Proof.Machine
end

section
/-! PROOFS of the program region after `reset` with an image that fits (spec/70_reset_and_hazards.md R221): its bytes, its
first word, and the first step where it is empty. -/

namespace Sys2Proof.Machine

variable {s : State} {image : List Byte}

/-- Byte `k` of an image that fits stands at `0x200 + k`, uninterpreted. -/
theorem State.readByte_reboot_image (h : image.length ≤ 3584) (k : Nat) (hk : k < image.length) :
    (s.reboot image).readByte (0x200 + k) = image[k] :=
  read_bootMemory_image h k hk

/-- From the end of the image on, the program region is zero: no font byte stands there. -/
theorem State.readByte_reboot_rest {a : Nat} (h : 0x200 + image.length ≤ a) : (s.reboot image).readByte a = 0 :=
  (read_bootMemory_other a (.inr h)).trans (Memory.unlisted_zero (.inr (by omega)))

/-- The first two bytes of an image that fits are the first word fetched, high byte first (R54). -/
theorem State.fetchWord_reboot (h : image.length ≤ 3584) (h2 : 2 ≤ image.length) :
    (s.reboot image).fetchWord = wordOfBytes (image[0]) (image[1]) :=
  congrArg₂ wordOfBytes (State.readByte_reboot_image h 0 (by omega)) (State.readByte_reboot_image h 1 (by omega))

/-- The first step after `reset` with an empty image reports the zero word at `0x200`: the example of R191. -/
theorem State.stepEvent_reboot_nil (s : State) :
    ∃ u, (s.reboot []).stepEvent = .next u ∧ u.outcome = .fault (.unknownOpcode 0x0200 0x0000) := by
  obtain ⟨t, u, hreset, hstep, hreport, -⟩ := unknownWordIsReported.2 s
  obtain rfl : s.reboot [] = t := Host.Outcome.next.inj hreset
  exact ⟨u, hstep, hreport⟩

/-- Settles O14: the memory that `reset` leaves read at an address of the image and past its end, the first word from its
two bytes, and the first step of an empty image from its zero word. -/
theorem resetLoadsTheImageVerbatim : Obligations.ResetLoadsTheImageVerbatim := by
  intro s image hfits
  refine ⟨s.reboot image, rfl, ?bytes, ?rest, ?firstWord, ?empty⟩
  case bytes => exact State.readByte_reboot_image hfits
  case rest => exact fun a ha _ => State.readByte_reboot_rest ha
  case firstWord => exact State.fetchWord_reboot hfits
  case empty =>
    rintro rfl
    exact s.stepEvent_reboot_nil

end Sys2Proof.Machine
end

section
/-! PROOFS of the encoding (spec/30_encoding.md sections 1 to 4): the decoder class by class, a word put together again
from its fields, and from these the round trips, the opcode map and the table of unknown words. -/

namespace Sys2Proof

/-! ### The decoder, one equation per class (R74) -/

section

variable {w : Word}

theorem decodeWord_class0 (h : classOf w = 0x0) :
    decodeWord w = if w = 0x00E0 then .ok .cls else if w = 0x00EE then .ok .ret else .error .unknownClass0 := by
  simp [decodeWord, h]

theorem decodeWord_class1 (h : classOf w = 0x1) : decodeWord w = .ok (.jp (addrOf w)) := by simp [decodeWord, h]

theorem decodeWord_class2 (h : classOf w = 0x2) : decodeWord w = .ok (.call (addrOf w)) := by simp [decodeWord, h]

theorem decodeWord_class3 (h : classOf w = 0x3) : decodeWord w = .ok (.seImm (xOf w) (immOf w)) := by
  simp [decodeWord, h]

theorem decodeWord_class4 (h : classOf w = 0x4) : decodeWord w = .ok (.sneImm (xOf w) (immOf w)) := by
  simp [decodeWord, h]

theorem decodeWord_class5 (h : classOf w = 0x5) :
    decodeWord w = if nOf w = 0 then .ok (.seReg (xOf w) (yOf w)) else .error .unknownClass5 := by
  simp [decodeWord, h]

theorem decodeWord_class6 (h : classOf w = 0x6) : decodeWord w = .ok (.ldImm (xOf w) (immOf w)) := by
  simp [decodeWord, h]

theorem decodeWord_class7 (h : classOf w = 0x7) : decodeWord w = .ok (.addImm (xOf w) (immOf w)) := by
  simp [decodeWord, h]

theorem decodeWord_class8 (h : classOf w = 0x8) : decodeWord w = decodeClass8 (xOf w) (yOf w) (nOf w) := by
  simp [decodeWord, h]

theorem decodeWord_class9 (h : classOf w = 0x9) :
    decodeWord w = if nOf w = 0 then .ok (.sneReg (xOf w) (yOf w)) else .error .unknownClass9 := by
  simp [decodeWord, h]

theorem decodeWord_classA (h : classOf w = 0xA) : decodeWord w = .ok (.ldI (addrOf w)) := by simp [decodeWord, h]

theorem decodeWord_classB (h : classOf w = 0xB) : decodeWord w = .ok (.jpV0 (addrOf w)) := by simp [decodeWord, h]

theorem decodeWord_classC (h : classOf w = 0xC) : decodeWord w = .ok (.rnd (xOf w) (immOf w)) := by
  simp [decodeWord, h]

theorem decodeWord_classD (h : classOf w = 0xD) : decodeWord w = .ok (.drw (xOf w) (yOf w) (nOf w)) := by
  simp [decodeWord, h]

theorem decodeWord_classE (h : classOf w = 0xE) : decodeWord w = decodeClassE (xOf w) (immOf w) := by
  simp [decodeWord, h]

theorem decodeWord_classF (h : classOf w = 0xF) : decodeWord w = decodeClassF (xOf w) (immOf w) := by
  simp [decodeWord, h]

end

/-! ### Decode of encode -/

theorem decodeWord_encode (i : Instr) : decodeWord (encode i) = .ok i := by
  cases i
  case cls | ret => decide
  case jp => exact (decodeWord_class1 (classOf_encodeA _ _)).trans (by simp)
  case call => exact (decodeWord_class2 (classOf_encodeA _ _)).trans (by simp)
  case seImm => exact (decodeWord_class3 (classOf_encodeXI _ _ _)).trans (by simp)
  case sneImm => exact (decodeWord_class4 (classOf_encodeXI _ _ _)).trans (by simp)
  case seReg => exact (decodeWord_class5 (classOf_encodeXYN _ _ _ _)).trans (by simp)
  case ldImm => exact (decodeWord_class6 (classOf_encodeXI _ _ _)).trans (by simp)
  case addImm => exact (decodeWord_class7 (classOf_encodeXI _ _ _)).trans (by simp)
  case ldReg | orReg | andReg | xorReg | addReg | subReg | shr | subn | shl =>
    exact (decodeWord_class8 (classOf_encodeXYN _ _ _ _)).trans (by simp [decodeClass8])
  case sneReg => exact (decodeWord_class9 (classOf_encodeXYN _ _ _ _)).trans (by simp)
  case ldI => exact (decodeWord_classA (classOf_encodeA _ _)).trans (by simp)
  case jpV0 => exact (decodeWord_classB (classOf_encodeA _ _)).trans (by simp)
  case rnd => exact (decodeWord_classC (classOf_encodeXI _ _ _)).trans (by simp)
  case drw => exact (decodeWord_classD (classOf_encodeXYN _ _ _ _)).trans (by simp)
  case skp | sknp => exact (decodeWord_classE (classOf_encodeXI _ _ _)).trans (by simp [decodeClassE])
  case ldVxDT | ldVxK | ldDTVx | ldSTVx | addI | ldF | ldB | ldMemVx | ldVxMem =>
    exact (decodeWord_classF (classOf_encodeXI _ _ _)).trans (by simp [decodeClassF])

/-- Settles O2: the two bytes make up the word again, and the decoder reads each field back from its place in it. -/
theorem decodeOfEncodeIsTheInstruction : Obligations.DecodeOfEncodeIsTheInstruction := by
  intro i rest
  simp [decode, encodeBytes, decodeWord_encode]

/-! ### A word is made up of its fields, format by format (R71, R72) -/

section

variable {w : Word}

theorem encodeA_of_class {cls : BitVec 4} (hc : classOf w = cls) : encodeA cls (addrOf w) = w := by
  subst hc
  apply bits_eq; intro k hk; interval_cases k <;> simp [encodeA, classOf, addrOf]

theorem encodeXI_of_class {cls : BitVec 4} (hc : classOf w = cls) : encodeXI cls (xOf w) (immOf w) = w := by
  subst hc
  have hx : regNibble (xOf w) = w.extractLsb' 8 4 := rfl
  apply bits_eq; intro k hk; interval_cases k <;> simp [encodeXI, classOf, hx, immOf]

theorem encodeXYN_of_class {cls : BitVec 4} (hc : classOf w = cls) :
    encodeXYN cls (xOf w) (yOf w) (regNibble (nOf w)) = w := by
  subst hc
  have hx : regNibble (xOf w) = w.extractLsb' 8 4 := rfl
  have hy : regNibble (yOf w) = w.extractLsb' 4 4 := rfl
  have hn : regNibble (nOf w) = w.extractLsb' 0 4 := rfl
  apply bits_eq; intro k hk; interval_cases k <;> simp [encodeXYN, classOf, hx, hy, hn]

end

/-! ### Encode of decode -/

/-- The sixteen classes of the opcode map (R71). -/
theorem class_cases (c : BitVec 4) :
    c = 0x0 ∨ c = 0x1 ∨ c = 0x2 ∨ c = 0x3 ∨ c = 0x4 ∨ c = 0x5 ∨ c = 0x6 ∨ c = 0x7 ∨ c = 0x8 ∨ c = 0x9 ∨ c = 0xA ∨
    c = 0xB ∨ c = 0xC ∨ c = 0xD ∨ c = 0xE ∨ c = 0xF := by
  revert c; decide

theorem encode_of_decodeClass8 {x y n : Fin 16} {i : Instr} (h : decodeClass8 x y n = .ok i) :
    encode i = encodeXYN 0x8 x y (regNibble n) := by
  fin_cases n <;> cases h <;> rfl

theorem encode_of_decodeClassE {x : Reg} {imm : Byte} {i : Instr} (h : decodeClassE x imm = .ok i) :
    encode i = encodeXI 0xE x imm := by
  unfold decodeClassE at h
  split_ifs at h with himm himm <;> cases h <;> rw [himm] <;> rfl

theorem encode_of_decodeClassF {x : Reg} {imm : Byte} {i : Instr} (h : decodeClassF x imm = .ok i) :
    encode i = encodeXI 0xF x imm := by
  unfold decodeClassF at h
  split_ifs at h with himm himm himm himm himm himm himm himm himm <;> cases h <;> rw [himm] <;> rfl

theorem encode_of_decodeWord {w : Word} {i : Instr} (h : decodeWord w = .ok i) : encode i = w := by
  rcases class_cases (classOf w) with hc | hc | hc | hc | hc | hc | hc | hc | hc | hc | hc | hc | hc | hc | hc | hc
  · rw [decodeWord_class0 hc] at h
    split_ifs at h with hw hw <;> cases h <;> rw [hw] <;> rfl
  · cases (decodeWord_class1 hc).symm.trans h; exact encodeA_of_class hc
  · cases (decodeWord_class2 hc).symm.trans h; exact encodeA_of_class hc
  · cases (decodeWord_class3 hc).symm.trans h; exact encodeXI_of_class hc
  · cases (decodeWord_class4 hc).symm.trans h; exact encodeXI_of_class hc
  · rw [decodeWord_class5 hc] at h
    split_ifs at h with hn
    cases h
    have hw := encodeXYN_of_class hc
    rw [hn] at hw
    exact hw
  · cases (decodeWord_class6 hc).symm.trans h; exact encodeXI_of_class hc
  · cases (decodeWord_class7 hc).symm.trans h; exact encodeXI_of_class hc
  · exact (encode_of_decodeClass8 ((decodeWord_class8 hc).symm.trans h)).trans (encodeXYN_of_class hc)
  · rw [decodeWord_class9 hc] at h
    split_ifs at h with hn
    cases h
    have hw := encodeXYN_of_class hc
    rw [hn] at hw
    exact hw
  · cases (decodeWord_classA hc).symm.trans h; exact encodeA_of_class hc
  · cases (decodeWord_classB hc).symm.trans h; exact encodeA_of_class hc
  · cases (decodeWord_classC hc).symm.trans h; exact encodeXI_of_class hc
  · cases (decodeWord_classD hc).symm.trans h; exact encodeXYN_of_class hc
  · exact (encode_of_decodeClassE ((decodeWord_classE hc).symm.trans h)).trans (encodeXI_of_class hc)
  · exact (encode_of_decodeClassF ((decodeWord_classF hc).symm.trans h)).trans (encodeXI_of_class hc)

/-- Settles O3: class by class, the decoder keeps every field of the word, and the fields make up the word. -/
theorem encodeOfDecodeIsTheWord : Obligations.EncodeOfDecodeIsTheWord := fun _ _ => encode_of_decodeWord

/-! ### The opcode map (R76) -/

theorem covers_encode (i : Instr) : (rowOf i).covers (encode i) = true := by
  refine beq_iff_eq.mpr ?_
  cases i
  case cls | ret => rfl
  case jp | call | ldI | jpV0 => exact encodeA_mask _ _
  case seImm | sneImm | ldImm | addImm | rnd => exact encodeXI_mask_class _ _ _
  case seReg | sneReg | ldReg | orReg | andReg | xorReg | addReg | subReg | shr | subn | shl =>
    exact encodeXYN_mask_selector _ _ _ _
  case drw => exact encodeXYN_mask_class _ _ _ _
  case skp | sknp | ldVxDT | ldVxK | ldDTVx | ldSTVx | addI | ldF | ldB | ldMemVx | ldVxMem =>
    exact encodeXI_mask_selector _ _ _

section

variable {w m : Word} {cls : BitVec 4}

theorem classOf_and (w : Word) (hm : classOf m = 0xF) : classOf (w &&& m) = classOf w :=
  calc classOf (w &&& m)
    _ = classOf w &&& classOf m := BitVec.extractLsb'_and
    _ = classOf w := hm ▸ BitVec.and_allOnes

theorem immOf_and (w : Word) (hm : immOf m = 0xFF) : immOf (w &&& m) = immOf w :=
  calc immOf (w &&& m)
    _ = immOf w &&& immOf m := BitVec.extractLsb'_and
    _ = immOf w := hm ▸ BitVec.and_allOnes

theorem regNibble_nOf_and (w : Word) (hm : regNibble (nOf m) = 0xF) : regNibble (nOf (w &&& m)) = regNibble (nOf w) :=
  calc regNibble (nOf (w &&& m))
    _ = regNibble (nOf w) &&& regNibble (nOf m) := BitVec.extractLsb'_and
    _ = regNibble (nOf w) := hm ▸ BitVec.and_allOnes

theorem classOf_of_mask (h : w &&& 0xF000 = cls.setWidth 16 <<< 12) : classOf w = cls := by
  have hmask : w &&& 0xF000 = encodeA cls 0 &&& 0xF000 := h.trans (encodeA_mask cls 0).symm
  rw [← classOf_and w (m := 0xF000) (by decide), hmask, classOf_and _ (by decide), classOf_encodeA]

theorem encodeA_of_mask (h : w &&& 0xF000 = cls.setWidth 16 <<< 12) : encodeA cls (addrOf w) = w :=
  encodeA_of_class (classOf_of_mask h)

theorem encodeXI_of_mask_class (h : w &&& 0xF000 = cls.setWidth 16 <<< 12) : encodeXI cls (xOf w) (immOf w) = w :=
  encodeXI_of_class (classOf_of_mask h)

theorem encodeXYN_of_mask_class (h : w &&& 0xF000 = cls.setWidth 16 <<< 12) :
    encodeXYN cls (xOf w) (yOf w) (regNibble (nOf w)) = w :=
  encodeXYN_of_class (classOf_of_mask h)

theorem encodeXI_of_mask_selector {imm : Byte} (h : w &&& 0xF0FF = cls.setWidth 16 <<< 12 ||| imm.setWidth 16) :
    encodeXI cls (xOf w) imm = w := by
  have hmask : w &&& 0xF0FF = encodeXI cls 0 imm &&& 0xF0FF := h.trans (encodeXI_mask_selector cls 0 imm).symm
  have hc : classOf w = cls := by
    rw [← classOf_and w (m := 0xF0FF) (by decide), hmask, classOf_and _ (by decide), classOf_encodeXI]
  have himm : immOf w = imm := by
    rw [← immOf_and w (m := 0xF0FF) (by decide), hmask, immOf_and _ (by decide), immOf_encodeXI]
  exact himm ▸ encodeXI_of_class hc

theorem encodeXYN_of_mask_selector {n : BitVec 4} (h : w &&& 0xF00F = cls.setWidth 16 <<< 12 ||| n.setWidth 16) :
    encodeXYN cls (xOf w) (yOf w) n = w := by
  have hmask : w &&& 0xF00F = encodeXYN cls 0 0 n &&& 0xF00F := h.trans (encodeXYN_mask_selector cls 0 0 n).symm
  have hc : classOf w = cls := by
    rw [← classOf_and w (m := 0xF00F) (by decide), hmask, classOf_and _ (by decide), classOf_encodeXYN]
  have hn : regNibble (nOf w) = n := by
    rw [← regNibble_nOf_and w (m := 0xF00F) (by decide), hmask, regNibble_nOf_and _ (by decide), nOf_encodeXYN]
    rfl
  exact hn ▸ encodeXYN_of_class hc

/-- A word that a row covers is the word of an instruction of that row: its operands are the word's fields. -/
theorem encode_of_covers {i : Instr} (h : (rowOf i).covers w = true) : ∃ j, encode j = w ∧ rowOf j = rowOf i := by
  replace h := beq_iff_eq.mp h
  cases i
  case cls => exact ⟨.cls, ((BitVec.and_allOnes (x := w)).symm.trans h).symm, rfl⟩
  case ret => exact ⟨.ret, ((BitVec.and_allOnes (x := w)).symm.trans h).symm, rfl⟩
  case jp => exact ⟨.jp _, encodeA_of_mask h, rfl⟩
  case call => exact ⟨.call _, encodeA_of_mask h, rfl⟩
  case seImm => exact ⟨.seImm _ _, encodeXI_of_mask_class h, rfl⟩
  case sneImm => exact ⟨.sneImm _ _, encodeXI_of_mask_class h, rfl⟩
  case seReg => exact ⟨.seReg _ _, encodeXYN_of_mask_selector h, rfl⟩
  case ldImm => exact ⟨.ldImm _ _, encodeXI_of_mask_class h, rfl⟩
  case addImm => exact ⟨.addImm _ _, encodeXI_of_mask_class h, rfl⟩
  case ldReg => exact ⟨.ldReg _ _, encodeXYN_of_mask_selector h, rfl⟩
  case orReg => exact ⟨.orReg _ _, encodeXYN_of_mask_selector h, rfl⟩
  case andReg => exact ⟨.andReg _ _, encodeXYN_of_mask_selector h, rfl⟩
  case xorReg => exact ⟨.xorReg _ _, encodeXYN_of_mask_selector h, rfl⟩
  case addReg => exact ⟨.addReg _ _, encodeXYN_of_mask_selector h, rfl⟩
  case subReg => exact ⟨.subReg _ _, encodeXYN_of_mask_selector h, rfl⟩
  case shr => exact ⟨.shr _ _, encodeXYN_of_mask_selector h, rfl⟩
  case subn => exact ⟨.subn _ _, encodeXYN_of_mask_selector h, rfl⟩
  case shl => exact ⟨.shl _ _, encodeXYN_of_mask_selector h, rfl⟩
  case sneReg => exact ⟨.sneReg _ _, encodeXYN_of_mask_selector h, rfl⟩
  case ldI => exact ⟨.ldI _, encodeA_of_mask h, rfl⟩
  case jpV0 => exact ⟨.jpV0 _, encodeA_of_mask h, rfl⟩
  case rnd => exact ⟨.rnd _ _, encodeXI_of_mask_class h, rfl⟩
  case drw => exact ⟨.drw _ _ (nOf w), encodeXYN_of_mask_class h, rfl⟩
  case skp => exact ⟨.skp _, encodeXI_of_mask_selector h, rfl⟩
  case sknp => exact ⟨.sknp _, encodeXI_of_mask_selector h, rfl⟩
  case ldVxDT => exact ⟨.ldVxDT _, encodeXI_of_mask_selector h, rfl⟩
  case ldVxK => exact ⟨.ldVxK _, encodeXI_of_mask_selector h, rfl⟩
  case ldDTVx => exact ⟨.ldDTVx _, encodeXI_of_mask_selector h, rfl⟩
  case ldSTVx => exact ⟨.ldSTVx _, encodeXI_of_mask_selector h, rfl⟩
  case addI => exact ⟨.addI _, encodeXI_of_mask_selector h, rfl⟩
  case ldF => exact ⟨.ldF _, encodeXI_of_mask_selector h, rfl⟩
  case ldB => exact ⟨.ldB _, encodeXI_of_mask_selector h, rfl⟩
  case ldMemVx => exact ⟨.ldMemVx _, encodeXI_of_mask_selector h, rfl⟩
  case ldVxMem => exact ⟨.ldVxMem _, encodeXI_of_mask_selector h, rfl⟩

end

/-- One instruction per row, in the map's order: no row depends on an operand. -/
theorem opcodeMap_eq_map : opcodeMap =
    [.cls, .ret, .jp 0, .call 0, .seImm 0 0, .sneImm 0 0, .seReg 0 0, .ldImm 0 0, .addImm 0 0, .ldReg 0 0, .orReg 0 0,
      .andReg 0 0, .xorReg 0 0, .addReg 0 0, .subReg 0 0, .shr 0 0, .subn 0 0, .shl 0 0, .sneReg 0 0, .ldI 0, .jpV0 0,
      .rnd 0 0, .drw 0 0 0, .skp 0, .sknp 0, .ldVxDT 0, .ldVxK 0, .ldDTVx 0, .ldSTVx 0, .addI 0, .ldF 0, .ldB 0,
      .ldMemVx 0, .ldVxMem 0].map rowOf := rfl

theorem mem_opcodeMap {row : OpcodeRow} : row ∈ opcodeMap ↔ ∃ i, rowOf i = row := by
  constructor
  · intro h
    rw [opcodeMap_eq_map] at h
    obtain ⟨i, -, hi⟩ := List.mem_map.mp h
    exact ⟨i, hi⟩
  · rintro ⟨i, rfl⟩
    cases i <;> simp [opcodeMap, rowOf]

/-- Settles O4: an instruction's word lies in its row, and a word in a row is the word of an instruction of that row;
the round trips carry both over to the decoder. -/
theorem decoderAgreesWithTheOpcodeMap : Obligations.DecoderAgreesWithTheOpcodeMap := by
  refine ⟨?rows, fun w i hd => ⟨mem_opcodeMap.mpr ⟨i, rfl⟩, ?covered⟩, fun w row hrow hcov => ?found⟩
  case rows => rw [opcodeMap_eq_map, List.length_map]; rfl
  case covered =>
    rw [← encode_of_decodeWord hd]
    exact covers_encode i
  case found =>
    obtain ⟨i, rfl⟩ := mem_opcodeMap.mp hrow
    obtain ⟨j, rfl, hj⟩ := encode_of_covers hcov
    exact ⟨j, decodeWord_encode j, hj⟩

/-! ### The unknown words (R79) -/

section

variable {w : Word}

theorem toNat_classOf : (classOf w).toNat = w.toNat / 4096 := by
  have := w.isLt
  simp only [classOf, BitVec.extractLsb'_toNat, Nat.shiftRight_eq_div_pow]
  omega

theorem val_nOf : (nOf w).val = w.toNat % 16 := by simp [nOf]

theorem toNat_immOf : (immOf w).toNat = w.toNat % 256 := by simp [immOf]

end

theorem decodeClass8_unknown {x y n : Fin 16} :
    (∃ e, decodeClass8 x y n = .error e) ↔ n.val ∈ [8, 9, 0xA, 0xB, 0xC, 0xD, 0xF] := by
  fin_cases n <;> simp [decodeClass8]

theorem decodeClassE_unknown {x : Reg} {imm : Byte} :
    (∃ e, decodeClassE x imm = .error e) ↔ imm.toNat ∉ [0x9E, 0xA1] := by
  unfold decodeClassE
  split_ifs <;> simp_all [BitVec.toNat_eq]

theorem decodeClassF_unknown {x : Reg} {imm : Byte} :
    (∃ e, decodeClassF x imm = .error e) ↔
      imm.toNat ∉ [0x07, 0x0A, 0x15, 0x18, 0x1E, 0x29, 0x33, 0x55, 0x65] := by
  unfold decodeClassF
  split_ifs <;> simp_all [BitVec.toNat_eq]

/-- Settles O5: class by class, the secondary match fails exactly on the rows of the table. -/
theorem unknownWordsAreExactlyTheTable : Obligations.UnknownWordsAreExactlyTheTable := by
  intro w
  rw [← toNat_classOf, ← val_nOf, ← toNat_immOf]
  rcases class_cases (classOf w) with hc | hc | hc | hc | hc | hc | hc | hc | hc | hc | hc | hc | hc | hc | hc | hc
  · rw [decodeWord_class0 hc]
    split_ifs <;> simp_all
  · simp [decodeWord_class1 hc, hc]
  · simp [decodeWord_class2 hc, hc]
  · simp [decodeWord_class3 hc, hc]
  · simp [decodeWord_class4 hc, hc]
  · rw [decodeWord_class5 hc]
    split_ifs <;> simp_all
  · simp [decodeWord_class6 hc, hc]
  · simp [decodeWord_class7 hc, hc]
  · simp [decodeWord_class8 hc, decodeClass8_unknown, hc]
  · rw [decodeWord_class9 hc]
    split_ifs <;> simp_all
  · simp [decodeWord_classA hc, hc]
  · simp [decodeWord_classB hc, hc]
  · simp [decodeWord_classC hc, hc]
  · simp [decodeWord_classD hc, hc]
  · simp [decodeWord_classE hc, decodeClassE_unknown, hc]
  · simp [decodeWord_classF hc, decodeClassF_unknown, hc]

/-- Settles O1: each word is run through the decoder. -/
theorem sampleWordsDecode : Obligations.SampleWordsDecode := by
  unfold Obligations.SampleWordsDecode
  decide

end Sys2Proof
end

section
/-! PROOFS of control transfer and of the key instructions (spec/41_control_flow.md, spec/45_timers_keyboard.md section
3): what each answers, case by case, and from it the result and the frame. -/

namespace Sys2Proof.Machine

variable {s : State}

theorem toNat_addrOperand (addr : Addr) : (addrOperand addr).toNat = addr.toNat := by
  simp only [addrOperand, BitVec.toNat_setWidth]
  omega

/-- The sum of `JP V0` in unbounded integers: it stays below a wrap (R118). -/
theorem State.toNat_addrOperand_add_wideV (addr : Addr) (s : State) (r : Reg) :
    (addrOperand addr + s.wideV r).toNat = addr.toNat + (s.getV r).toNat := by
  have haddr := addr.isLt
  have hv := (s.getV r).isLt
  simp only [BitVec.toNat_add, toNat_addrOperand, State.wideV, BitVec.toNat_setWidth]
  omega

/-! ### The call stack -/

theorem exec_ret_pop (k : Fin 16) (h : s.sp.val = k.val + 1) :
    exec .ret s = .next (((s.setStack s.stack k.castSucc).setPc (s.slot k)).setOutcome .ok) := by
  have hk : s.sp.val - 1 = k.val := by omega
  have hpop := s.pop_of_pos (by omega) (by omega)
  simp only [hk] at hpop
  simp only [exec, execRet, hpop]
  rfl

theorem exec_ret_empty (h : s.sp.val = 0) :
    exec .ret s = .next (s.setOutcome (.fault (.stackUnderflow (s.pc - 2)))) := by
  simp only [exec, execRet, s.pop_empty h]
  rfl

theorem exec_call_push (addr : Addr) (k : Fin 16) (h : s.sp.val = k.val) :
    exec (.call addr) s =
      .next (((s.setStack (s.stack.set k.val s.pc k.isLt) k.succ).setPc (addrOperand addr)).setOutcome .ok) := by
  have hpush := s.push_of_lt s.pc (h ▸ k.isLt)
  simp only [h] at hpush
  simp only [exec, execCall, hpush]
  rfl

theorem exec_call_full (addr : Addr) (h : s.sp.val = 16) :
    exec (.call addr) s = .next (s.setOutcome (.fault (.stackOverflow (s.pc - 2)))) := by
  simp only [exec, execCall, s.push_full s.pc h]
  rfl

/-- A report of a fault touches the outcome only. -/
theorem unchangedBut_report (s : State) (f : Fault) :
    unchangedBut (fun l => l = .outcome) s (s.setOutcome (.fault f)) := unchangedBut.refl.setOutcome rfl

/-- Settles O18: the pop with its three writes, and the report. -/
theorem retPopsThePc : Obligations.RetPopsThePc := by
  refine fun s => ⟨fun k hk => ⟨_, exec_ret_pop k hk, rfl, rfl, rfl, ?frame⟩,
    fun h => ⟨_, exec_ret_empty h, rfl, unchangedBut_report s _⟩⟩
  exact ((unchangedBut.refl.setStack (.inr (.inl rfl)) fun _ => .inl rfl).setPc (.inl rfl)).setOutcome (.inr (.inr rfl))

/-- Settles O19: the target is the address of the instruction at full width. -/
theorem jumpSetsThePc : Obligations.JumpSetsThePc := fun addr _ =>
  ⟨_, rfl, rfl, toNat_addrOperand addr, (unchangedBut.refl.setPc (.inl rfl)).setOutcome (.inr rfl)⟩

/-- Settles O20: the push writes the one slot at the depth; at depth 16 the report. -/
theorem callPushesTheReturnAddress : Obligations.CallPushesTheReturnAddress := by
  refine fun addr s => ⟨fun k hk => ⟨_, exec_call_push addr k hk, rfl, ?slot, rfl, toNat_addrOperand addr, ?frame⟩,
    fun h => ⟨_, exec_call_full addr h, rfl, unchangedBut_report s _⟩⟩
  case slot => exact Vector.getElem_set_self k.isLt
  case frame =>
    refine ((unchangedBut.refl.setStack (.inr (.inl rfl)) fun j => ?_).setPc (.inl rfl)).setOutcome
      (.inr (.inr (.inr rfl)))
    by_cases hj : j = k
    · exact .inr (.inr (.inr (.inl (hj ▸ rfl))))
    · exact .inl (Vector.getElem_set_ne k.isLt j.isLt fun e => hj (Fin.ext e.symm))

/-- Settles O21: `RET` pops what `CALL` pushed; the reports change neither slots nor depth. -/
theorem callThenRetRestoresThePc : Obligations.CallThenRetRestoresThePc := by
  refine fun addr s => ⟨fun h => ?pair, fun h => ⟨_, exec_call_full addr h, rfl, rfl, rfl⟩,
    fun h => ⟨_, exec_ret_empty h, rfl, rfl, rfl⟩⟩
  refine ⟨_, _, exec_call_push addr ⟨s.sp.val, h⟩ rfl, exec_ret_pop ⟨s.sp.val, h⟩ rfl, ?_, rfl⟩
  exact Vector.getElem_set_self h

/-! ### Skips and the offset jump -/

/-- A skip on a condition `p`: result and frame (R110). -/
theorem State.skipIf_spec {taken : Bool} {p : Prop} [Decidable p] (h : taken = true ↔ p) (s : State) :
    ∃ t, s.skipIf taken = .next t ∧ t.outcome = .ok ∧ t.pc = (if p then s.pc + 2 else s.pc) ∧
      unchangedBut (fun l => l = .pc ∨ l = .outcome) s t :=
  ⟨_, s.skipIf_eq taken, rfl, if_congr h rfl rfl, (unchangedBut.refl.setPc (.inl rfl)).setOutcome (.inr rfl)⟩

/-- Settles O22: each form is a skip on its comparison. -/
theorem skipsCompareAndAdvance : Obligations.SkipsCompareAndAdvance := fun _ _ _ s =>
  ⟨s.skipIf_spec beq_iff_eq, s.skipIf_spec bne_iff_ne, s.skipIf_spec beq_iff_eq, s.skipIf_spec bne_iff_ne⟩

/-- Settles O23: the sum of a 12-bit address and a byte stays within 16 bits. -/
theorem jumpWithOffsetAddsV0 : Obligations.JumpWithOffsetAddsV0 := by
  intro addr s
  have hsum : (addrOperand addr + s.wideV 0).toNat = addr.toNat + (s.getV 0).toNat :=
    s.toNat_addrOperand_add_wideV addr 0
  refine ⟨_, rfl, rfl, hsum, ?bound, (unchangedBut.refl.setPc (.inl rfl)).setOutcome (.inr rfl)⟩
  have haddr := addr.isLt
  have hv := (s.getV 0).isLt
  exact hsum.trans_le (by omega)

/-! ### Keys -/

theorem exec_skp_of_le {x : Reg} (h : (s.getV x).toNat ≤ 15) :
    exec (.skp x) s = s.skipIf (s.keyDown (s.getV x).toNat) := s.checkKey_pass h

theorem exec_sknp_of_le {x : Reg} (h : (s.getV x).toNat ≤ 15) :
    exec (.sknp x) s = s.skipIf (!s.keyDown (s.getV x).toNat) := s.checkKey_pass h

theorem exec_skp_of_lt {x : Reg} (h : 15 < (s.getV x).toNat) :
    exec (.skp x) s = .next (s.setOutcome (.fault (.keyIndexOutOfRange (s.pc - 2) (s.getV x)))) := s.checkKey_fail h

theorem exec_sknp_of_lt {x : Reg} (h : 15 < (s.getV x).toNat) :
    exec (.sknp x) s = .next (s.setOutcome (.fault (.keyIndexOutOfRange (s.pc - 2) (s.getV x)))) := s.checkKey_fail h

/-- Settles O47: below 16 a skip on the key's bit, above the report. -/
theorem keySkipsTestTheKeyVector : Obligations.KeySkipsTestTheKeyVector := by
  refine fun x s => ⟨fun k hle hk => ?inRange, fun h =>
    ⟨⟨_, exec_skp_of_lt h, rfl, unchangedBut_report s _⟩, ⟨_, exec_sknp_of_lt h, rfl, unchangedBut_report s _⟩⟩⟩
  subst hk
  rw [exec_skp_of_le hle, exec_sknp_of_le hle]
  exact ⟨s.skipIf_spec Iff.rfl, s.skipIf_spec (Bool.not_eq_true' _).to_iff⟩

theorem exec_ldVxK_wait (x : Reg) (h : s.keys = 0) :
    exec (.ldVxK x) s = .next ((s.setPc (s.pc - 2)).setOutcome .waiting) := by
  simp only [exec, execLdVxK, s.lowestKey_none.mpr h]
  rfl

/-- With a key down, `LD Vx, K` stores the least one. -/
theorem exec_ldVxK_store (x : Reg) (h : s.keys ≠ 0) :
    ∃ k, k < 16 ∧ s.keys.getLsbD k = true ∧ (∀ j, j < k → s.keys.getLsbD j = false) ∧
      exec (.ldVxK x) s = .next ((s.setV x (BitVec.ofNat 8 k)).setOutcome .ok) := by
  cases hk : s.lowestKey with
  | none => exact absurd (s.lowestKey_none.mp hk) h
  | some k =>
    obtain ⟨hlt, hdown, hleast⟩ := s.lowestKey_some.mp hk
    refine ⟨k, hlt, hdown, hleast, ?_⟩
    simp only [exec, execLdVxK, hk]
    rfl

/-- Settles O48: the least key fits in the register; with none down, the wait. -/
theorem keyWaitStoresTheLeastKeyOrWaits : Obligations.KeyWaitStoresTheLeastKeyOrWaits := by
  refine fun x s => ⟨fun h => ?store, fun h =>
    ⟨_, exec_ldVxK_wait x h, rfl, rfl, (unchangedBut.refl.setPc (.inl rfl)).setOutcome (.inr rfl)⟩⟩
  obtain ⟨k, hlt, hdown, hleast, hexec⟩ := exec_ldVxK_store x h
  have hreg : (((s.setV x (BitVec.ofNat 8 k)).setOutcome .ok).getV x).toNat = k := by
    rw [State.setOutcome_getV, State.getV_setV_self, BitVec.toNat_ofNat, Nat.mod_eq_of_lt (by omega)]
  refine ⟨_, hexec, rfl, ?_⟩
  rw [hreg]
  exact ⟨by omega, hdown, hleast, (unchangedBut.refl.setV (.inl rfl)).setOutcome (.inr rfl)⟩

end Sys2Proof.Machine
end

section
/-! PROOFS of the loads, the ALU, the random instruction and the index register (spec/42_alu.md, spec/43_index_memory.md
section 2, spec/45_timers_keyboard.md section 2): results and frames. -/

namespace Sys2Proof.Machine

variable {s : State}

/-! ### One register written -/

/-- An instruction that writes `b` to one register and completes: its frame. -/
theorem unchangedBut_setV_complete (s : State) (x : Reg) (b : Byte) :
    unchangedBut (fun l => l = .reg x ∨ l = .outcome) s ((s.setV x b).setOutcome .ok) :=
  (unchangedBut.refl.setV (.inl rfl)).setOutcome (.inr rfl)

/-- Settles O25: each form writes its one register. -/
theorem loadsAndAddImmediate : Obligations.LoadsAndAddImmediate := by
  refine fun x y imm s => ⟨⟨_, rfl, rfl, s.getV_setV_self x _, unchangedBut_setV_complete s x _⟩,
    ⟨_, rfl, rfl, ?sum, unchangedBut_setV_complete s x _⟩,
    ⟨_, rfl, rfl, s.getV_setV_self x _, unchangedBut_setV_complete s x _⟩⟩
  rw [State.setOutcome_getV, State.getV_setV_self, BitVec.toNat_add]

/-- Settles O26: each form writes its one register, bit by bit. -/
theorem logicIsBitwise : Obligations.LogicIsBitwise := by
  refine fun x y s => ⟨⟨_, rfl, rfl, fun k => ?or, unchangedBut_setV_complete s x _⟩,
    ⟨_, rfl, rfl, fun k => ?and, unchangedBut_setV_complete s x _⟩,
    ⟨_, rfl, rfl, fun k => ?xor, unchangedBut_setV_complete s x _⟩⟩
  case or => rw [State.setOutcome_getV, State.getV_setV_self, BitVec.getLsbD_or]
  case and => rw [State.setOutcome_getV, State.getV_setV_self, BitVec.getLsbD_and]
  case xor => rw [State.setOutcome_getV, State.getV_setV_self, BitVec.getLsbD_xor]

/-- Settles O31: the register is the random byte under the mask. -/
theorem randomIsTheInputUnderTheMask : Obligations.RandomIsTheInputUnderTheMask := by
  refine fun x imm s => ⟨_, rfl, rfl, fun k => ?_, unchangedBut_setV_complete s x _⟩
  rw [State.setOutcome_getV, State.getV_setV_self, BitVec.getLsbD_and]

/-- Settles O45: each copy writes its one piece. -/
theorem timersAreLoadedAndRead : Obligations.TimersAreLoadedAndRead := fun x s =>
  ⟨⟨_, rfl, rfl, s.getV_setV_self x s.dt, unchangedBut_setV_complete s x _⟩,
    ⟨_, rfl, rfl, rfl, (unchangedBut.refl.setDT (.inl rfl)).setOutcome (.inr rfl)⟩,
    ⟨_, rfl, rfl, rfl, (unchangedBut.refl.setST (.inl rfl)).setOutcome (.inr rfl)⟩⟩

/-! ### The index register -/

/-- `0x50 + 5*d` does not wrap, since `d` is a byte (R153). -/
theorem toNat_glyphAddr (d : Byte) : (glyphAddr d).toNat = 0x50 + 5 * d.toNat := by
  have hd := d.isLt
  simp [glyphAddr]
  omega

theorem State.toNat_wideV (s : State) (r : Reg) : (s.wideV r).toNat = (s.getV r).toNat := by
  have := (s.getV r).isLt
  simp only [State.wideV, BitVec.toNat_setWidth]
  omega

/-- An instruction that writes the index register and completes: its frame. -/
theorem unchangedBut_setI_complete (s : State) (w : Word) :
    unchangedBut (fun l => l = .index ∨ l = .outcome) s ((s.setI w).setOutcome .ok) :=
  (unchangedBut.refl.setI (.inl rfl)).setOutcome (.inr rfl)

/-- Settles O33: each form writes `I`, with its value in unbounded integers. -/
theorem indexRegisterIsSet : Obligations.IndexRegisterIsSet := by
  refine fun addr x s => ⟨⟨_, rfl, rfl, ?address, unchangedBut_setI_complete s _⟩,
    ⟨_, rfl, rfl, ?sum, unchangedBut_setI_complete s _⟩, ⟨_, rfl, rfl, ?glyph, unchangedBut_setI_complete s _⟩⟩
  case address =>
    have haddr := addr.isLt
    exact (BitVec.toNat_setWidth ..).trans (Nat.mod_eq_of_lt (by omega))
  case sum => exact (BitVec.toNat_add ..).trans (by rw [s.toNat_wideV])
  case glyph => exact toNat_glyphAddr (s.getV x)

/-! ### The flag writers -/

/-- The five flag writers of class 8 touch the destination, `VF` and the outcome only. -/
theorem unchangedBut_aluWithFlag_complete (s : State) (x : Reg) (flag : State → Bool) (result : State → Byte) :
    unchangedBut (fun l => l = .reg x ∨ l = .reg vf ∨ l = .outcome) s
      ((s.aluWithFlag x flag result).setOutcome .ok) :=
  (unchangedBut.refl.aluWithFlag (.inl rfl) (.inr (.inl rfl))).setOutcome (.inr (.inr rfl))

/-- A flag writer whose flag is `f` and whose result is `g`, both of `Vx` and `Vy` as they stand (R130). -/
def State.flagOp (s : State) (f : Byte → Byte → Bool) (g : Byte → Byte → Byte) (x y : Reg) : State :=
  s.aluWithFlag x (fun t => f (t.getV x) (t.getV y)) (fun t => g (t.getV x) (t.getV y))

theorem exec_addReg (x y : Reg) (s : State) :
    exec (.addReg x y) s = .next ((s.flagOp carryOut (fun a b => a + b) x y).setOutcome .ok) := rfl

theorem exec_subReg (x y : Reg) (s : State) :
    exec (.subReg x y) s = .next ((s.flagOp strictlyAbove (fun a b => a - b) x y).setOutcome .ok) := rfl

theorem exec_subn (x y : Reg) (s : State) :
    exec (.subn x y) s =
      .next ((s.flagOp (fun a b => strictlyAbove b a) (fun a b => b - a) x y).setOutcome .ok) := rfl

/-- The shifts have one operand: `Vy` takes no part (R78). -/
theorem exec_shr (x y : Reg) (s : State) :
    exec (.shr x y) s = .next ((s.flagOp (fun a _ => lowBit a) (fun a _ => a >>> 1) x x).setOutcome .ok) := rfl

theorem exec_shl (x y : Reg) (s : State) :
    exec (.shl x y) s = .next ((s.flagOp (fun a _ => highBit a) (fun a _ => a <<< 1) x x).setOutcome .ok) := rfl

section

variable {x y : Reg} (f : Byte → Byte → Bool) (g : Byte → Byte → Byte) (s : State)

/-- A register other than `VF` still holds its value when the flag and the result are formed. -/
theorem State.getV_flagged {r : Reg} (h : r ≠ vf) (b : Byte) : ((s.setV vf 0).setV vf b).getV r = s.getV r := by
  rw [State.getV_setV_of_ne _ b h, s.getV_setV_of_ne 0 h]

theorem State.flagOp_result (hx : x ≠ vf) (hy : y ≠ vf) :
    (s.flagOp f g x y).getV x = g (s.getV x) (s.getV y) := by
  rw [State.flagOp, s.getV_aluWithFlag, if_pos rfl, s.getV_flagged hx, s.getV_flagged hy]

theorem State.flagOp_flag (hx : x ≠ vf) (hy : y ≠ vf) :
    (s.flagOp f g x y).getV vf = flagByte (f (s.getV x) (s.getV y)) := by
  rw [State.flagOp, s.getV_aluWithFlag, if_neg hx.symm, if_pos rfl, s.getV_setV_of_ne 0 hx, s.getV_setV_of_ne 0 hy]

/-- With `VF` as the source the result reads the flag just written. -/
theorem State.flagOp_result_vf_src (hx : x ≠ vf) :
    (s.flagOp f g x vf).getV x = g (s.getV x) (flagByte (f (s.getV x) 0)) := by
  rw [State.flagOp, s.getV_aluWithFlag, if_pos rfl, s.getV_flagged hx, State.getV_setV_self, s.getV_setV_of_ne 0 hx,
    State.getV_setV_self]

/-- With `VF` as the source the flag reads the cleared `VF`. -/
theorem State.flagOp_flag_vf_src (hx : x ≠ vf) : (s.flagOp f g x vf).getV vf = flagByte (f (s.getV x) 0) := by
  rw [State.flagOp, s.getV_aluWithFlag, if_neg hx.symm, if_pos rfl, s.getV_setV_of_ne 0 hx, State.getV_setV_self]

/-- With `VF` as the destination the result, which reads the flag, overwrites it. -/
theorem State.flagOp_result_vf_dest (hy : y ≠ vf) :
    (s.flagOp f g vf y).getV vf = g (flagByte (f 0 (s.getV y))) (s.getV y) := by
  rw [State.flagOp, s.getV_aluWithFlag, if_pos rfl, s.getV_flagged hy, State.getV_setV_self, State.getV_setV_self,
    s.getV_setV_of_ne 0 hy]

theorem State.flagOp_result_vf_both :
    (s.flagOp f g vf vf).getV vf = g (flagByte (f 0 0)) (flagByte (f 0 0)) := by
  rw [State.flagOp, s.getV_aluWithFlag, if_pos rfl, State.getV_setV_self, State.getV_setV_self]

end

@[simp] theorem flagByte_false : flagByte false = 0 := rfl

theorem flagByte_zero_or_one (b : Bool) : flagByte b = 0 ∨ flagByte b = 1 := by
  cases b
  · exact .inl rfl
  · exact .inr rfl

theorem flagByte_carryOut (a b : Byte) : flagByte (carryOut a b) = if 255 < a.toNat + b.toNat then 1 else 0 := by
  simp [flagByte, carryOut]

theorem flagByte_strictlyAbove (a b : Byte) : flagByte (strictlyAbove a b) = if b.toNat < a.toNat then 1 else 0 := by
  simp [flagByte, strictlyAbove]

theorem carryOut_zero_left (b : Byte) : carryOut 0 b = false := by
  have := b.isLt
  simp [carryOut]
  omega

theorem carryOut_zero_right (a : Byte) : carryOut a 0 = false := by
  have := a.isLt
  simp [carryOut]
  omega

theorem strictlyAbove_zero_left (b : Byte) : strictlyAbove 0 b = false := by simp [strictlyAbove]

/-- Settles O27: the sum and the carry, read in the four cases of where `VF` stands. -/
theorem addReportsTheCarry : Obligations.AddReportsTheCarry := by
  refine fun x y s => ⟨_, exec_addReg x y s, rfl, fun hx hy => ?neither, ?dest, fun hx => ?src, ?both,
    unchangedBut_aluWithFlag_complete s x _ _⟩
  case neither =>
    simp only [State.setOutcome_getV, s.flagOp_result _ _ hx hy, s.flagOp_flag _ _ hx hy]
    exact ⟨BitVec.toNat_add .., flagByte_carryOut _ _⟩
  case dest =>
    rintro rfl hy
    simp only [State.setOutcome_getV, s.flagOp_result_vf_dest _ _ hy, carryOut_zero_left, flagByte_false,
      zero_add]
  case src =>
    rintro rfl
    simp only [State.setOutcome_getV, s.flagOp_result_vf_src _ _ hx, s.flagOp_flag_vf_src _ _ hx,
      carryOut_zero_right, flagByte_false, add_zero, and_self]
  case both =>
    rintro rfl rfl
    simp only [State.setOutcome_getV, s.flagOp_result_vf_both]
    decide

theorem toNat_sub_byte (a b : Byte) : (a - b).toNat = (256 + a.toNat - b.toNat) % 256 := by
  have hb := b.isLt
  rw [BitVec.toNat_sub, Nat.sub_add_comm hb.le]

/-- One less where there is something to take away: what `SUB` and `SUBN` leave when the flag itself is subtracted. -/
theorem toNat_sub_flagByte_above_zero (a : Byte) : (a - flagByte (strictlyAbove a 0)).toNat = a.toNat - 1 := by
  rw [flagByte_strictlyAbove]
  by_cases h : a = 0
  · subst h
    rfl
  · have hpos : 0 < a.toNat := Nat.pos_of_ne_zero fun e => h (BitVec.eq_of_toNat_eq e)
    have ha := a.isLt
    rw [if_pos (show (0 : Byte).toNat < a.toNat from hpos), toNat_sub_byte, show (1 : Byte).toNat = 1 from rfl]
    omega

/-- Settles O28: the difference and the strict comparison, read in the four cases of where `VF` stands. -/
theorem subReportsStrictlyGreater : Obligations.SubReportsStrictlyGreater := by
  refine fun x y s => ⟨_, exec_subReg x y s, rfl, fun hx hy => ?neither, ?dest, fun hx => ?src, ?both,
    unchangedBut_aluWithFlag_complete s x _ _⟩
  case neither =>
    simp only [State.setOutcome_getV, s.flagOp_result _ _ hx hy, s.flagOp_flag _ _ hx hy]
    exact ⟨toNat_sub_byte _ _, flagByte_strictlyAbove _ _⟩
  case dest =>
    rintro rfl hy
    simp only [State.setOutcome_getV, s.flagOp_result_vf_dest _ _ hy, strictlyAbove_zero_left, flagByte_false]
    exact toNat_sub_byte 0 _
  case src =>
    rintro rfl
    simp only [State.setOutcome_getV, s.flagOp_result_vf_src _ _ hx, s.flagOp_flag_vf_src _ _ hx]
    exact ⟨toNat_sub_flagByte_above_zero _, flagByte_strictlyAbove _ 0⟩
  case both =>
    rintro rfl rfl
    simp only [State.setOutcome_getV, s.flagOp_result_vf_both]
    decide

/-- Settles O29: the reverse difference and the strict comparison, read in the four cases of where `VF` stands. -/
theorem subnReportsStrictlyLess : Obligations.SubnReportsStrictlyLess := by
  refine fun x y s => ⟨_, exec_subn x y s, rfl, fun hx hy => ?neither, ?dest, fun hx => ?src, ?both,
    unchangedBut_aluWithFlag_complete s x _ _⟩
  case neither =>
    simp only [State.setOutcome_getV, s.flagOp_result _ _ hx hy, s.flagOp_flag _ _ hx hy]
    exact ⟨toNat_sub_byte _ _, flagByte_strictlyAbove _ _⟩
  case dest =>
    rintro rfl hy
    simp only [State.setOutcome_getV, s.flagOp_result_vf_dest _ _ hy]
    exact toNat_sub_flagByte_above_zero _
  case src =>
    rintro rfl
    simp only [State.setOutcome_getV, s.flagOp_result_vf_src _ _ hx, s.flagOp_flag_vf_src _ _ hx,
      strictlyAbove_zero_left, flagByte_false, and_true]
    exact toNat_sub_byte 0 _
  case both =>
    rintro rfl rfl
    simp only [State.setOutcome_getV, s.flagOp_result_vf_both]
    decide

theorem toNat_flagByte_lowBit (a : Byte) : (flagByte (lowBit a)).toNat = a.toNat % 2 := by revert a; decide +kernel

theorem toNat_flagByte_highBit (a : Byte) : (flagByte (highBit a)).toNat = a.toNat / 128 := by revert a; decide +kernel

/-- Settles O30: the shifted byte and the bit shifted out; with `VF` as the operand both are read from the
cleared `VF`. -/
theorem shiftsReportTheBitShiftedOut : Obligations.ShiftsReportTheBitShiftedOut := by
  refine fun x y s => ⟨⟨_, exec_shr x y s, rfl, fun hx => ⟨?right, ?lowBit⟩, ?rightVf,
      unchangedBut_aluWithFlag_complete s x _ _, fun z => exec_shr x z s⟩,
    ⟨_, exec_shl x y s, rfl, fun hx => ⟨?left, ?highBit⟩, ?leftVf,
      unchangedBut_aluWithFlag_complete s x _ _, fun z => exec_shl x z s⟩⟩
  case right =>
    simp only [State.setOutcome_getV, s.flagOp_result _ _ hx hx]
    exact (BitVec.toNat_ushiftRight ..).trans (Nat.shiftRight_eq_div_pow _ 1)
  case lowBit =>
    simp only [State.setOutcome_getV, s.flagOp_flag _ _ hx hx]
    exact toNat_flagByte_lowBit _
  case left =>
    simp only [State.setOutcome_getV, s.flagOp_result _ _ hx hx]
    rw [BitVec.toNat_shiftLeft, Nat.shiftLeft_eq, pow_one, Nat.mul_comm]
  case highBit =>
    simp only [State.setOutcome_getV, s.flagOp_flag _ _ hx hx]
    exact toNat_flagByte_highBit _
  case rightVf | leftVf =>
    rintro rfl
    simp only [State.setOutcome_getV, s.flagOp_result_vf_both]
    decide

/-! ### The range of `VF` -/

/-- `VF` holds 0 or 1 (R21). -/
def State.flagBounded (s : State) : Prop := s.getV vf = 0 ∨ s.getV vf = 1

theorem State.flagBounded_aluWithFlag (s : State) {x : Reg} (hx : x ≠ vf) (flag : State → Bool)
    (result : State → Byte) : (s.aluWithFlag x flag result).flagBounded := by
  rw [State.flagBounded, s.getV_aluWithFlag, if_neg hx.symm, if_pos rfl]
  exact flagByte_zero_or_one _

theorem State.flagBounded.setOutcome (h : s.flagBounded) (o : StepOutcome) : (s.setOutcome o).flagBounded := h

theorem State.flagBounded.drawDot (h : s.flagBounded) (x y : Reg) (row col : Nat) :
    (s.drawDot x y row col).flagBounded := by
  rw [State.flagBounded, s.getV_vf_drawDot]
  split
  · exact .inr rfl
  · exact h

theorem State.flagBounded.drawCols (h : s.flagBounded) (x y : Reg) (row : Nat) (bits : Byte) (cols : Nat) :
    (s.drawCols x y row bits cols).flagBounded := by
  induction cols with
  | zero => exact h
  | succ col ih =>
    simp only [State.drawCols]
    split
    · exact ih.drawDot x y row col
    · exact ih

theorem State.flagBounded.drawRows (h : s.flagBounded) (x y : Reg) (rows : Nat) :
    (s.drawRows x y rows).flagBounded := by
  induction rows with
  | zero => exact h
  | succ row ih => exact ih.drawCols x y row _ 8

/-- Settles O32: the flag writers leave a flag in `VF`, and a draw starts from 0 and writes only 1. -/
theorem flagRegisterHoldsZeroOrOne : Obligations.FlagRegisterHoldsZeroOrOne := by
  intro i x y n s t hi hx h hok
  change t.flagBounded
  simp only [List.mem_cons, List.not_mem_nil, or_false] at hi
  rcases hi with rfl | rfl | rfl | rfl | rfl | rfl
  iterate 5
    · cases h
      exact (s.flagBounded_aluWithFlag hx _ _).setOutcome _
  · have hclear : (s.setV vf 0).flagBounded := .inl (s.getV_setV_self vf 0)
    rcases exec_drw_cases x y n s with h' | ⟨f, h'⟩
    · cases h'.symm.trans h
      exact hclear.drawRows x y n.val
    · cases h'.symm.trans h
      exact absurd rfl (hok f)

end Sys2Proof.Machine
end

section
/-! PROOFS of the BCD converter, the block copies and the range check (spec/43_index_memory.md section 2,
spec/20_memory.md sections 1 and 5). -/

namespace Sys2Proof.Machine

variable {s : State}

/-! ### What the instructions answer: in range, and past the end of memory -/

theorem exec_ldB_inRange (x : Reg) (h : s.dataAddr 2 ≤ 4095) :
    exec (.ldB x) s = .next ((s.storeBytes (s.dataAddr 0) (bcdDigits (s.getV x))).setOutcome .ok) :=
  s.checkRange_pass (.inr h)

theorem exec_ldMemVx_inRange (x : Reg) (h : s.dataAddr x.val ≤ 4095) :
    exec (.ldMemVx x) s = .next ((s.storeBytes (s.dataAddr 0) (s.regBlock x)).setOutcome .ok) :=
  s.checkRange_pass (.inr h)

theorem exec_ldVxMem_inRange (x : Reg) (h : s.dataAddr x.val ≤ 4095) :
    exec (.ldVxMem x) s = .next ((s.loadBlock (x.val + 1)).setOutcome .ok) :=
  s.checkRange_pass (.inr h)

theorem exec_ldB_pastMemory (x : Reg) (h : 4095 < s.i.toNat + 2) :
    exec (.ldB x) s =
      .next (s.setOutcome (.fault (.memoryOutOfRange (s.pc - 2) .write s.i.toNat (s.i.toNat + 2)))) :=
  s.checkRange_fail ⟨by decide, h⟩

theorem exec_ldMemVx_pastMemory (x : Reg) (h : 4095 < s.i.toNat + x.val) :
    exec (.ldMemVx x) s =
      .next (s.setOutcome (.fault (.memoryOutOfRange (s.pc - 2) .write s.i.toNat (s.i.toNat + x.val)))) :=
  s.checkRange_fail ⟨x.val.succ_pos, h⟩

theorem exec_ldVxMem_pastMemory (x : Reg) (h : 4095 < s.i.toNat + x.val) :
    exec (.ldVxMem x) s =
      .next (s.setOutcome (.fault (.memoryOutOfRange (s.pc - 2) .read s.i.toNat (s.i.toNat + x.val)))) :=
  s.checkRange_fail ⟨x.val.succ_pos, h⟩

theorem exec_drw_pastMemory (x y : Reg) (n : Fin 16) (hn : 0 < n.val) (h : 4095 < s.i.toNat + n.val - 1) :
    exec (.drw x y n) s =
      .next (s.setOutcome (.fault (.memoryOutOfRange (s.pc - 2) .read s.i.toNat (s.i.toNat + n.val - 1)))) :=
  s.checkRange_fail ⟨hn, h⟩

/-- Settles O37: each range check reports its ends and gives back the state as it was. -/
theorem rangePastMemoryTransfersNothing : Obligations.RangePastMemoryTransfersNothing := fun x y n s =>
  ⟨fun h => ⟨_, exec_ldB_pastMemory x h, rfl, unchangedBut_report s _⟩,
    fun h => ⟨⟨_, exec_ldMemVx_pastMemory x h, rfl, unchangedBut_report s _⟩,
      ⟨_, exec_ldVxMem_pastMemory x h, rfl, unchangedBut_report s _⟩⟩,
    fun hn h => ⟨_, exec_drw_pastMemory x y n hn h, rfl, unchangedBut_report s _⟩⟩

/-! ### Stores -/

/-- A byte of a stored block that lies in memory reads back as stored. -/
theorem State.readByte_storeBytes_inside (hwf : Memory.wf s.mem = true) {a : Nat} {bs : List Byte} (k : Nat)
    (hk : k < bs.length) (ha : a + k < 4096) : (s.storeBytes a bs).readByte (a + k) = bs[k] :=
  Memory.read_writeBytes_inside hwf a bs k hk ha

/-- A store that completes touches the bytes of its block and the outcome only. -/
theorem unchangedBut_storeBytes_complete (s : State) (a : Nat) (bs : List Byte) :
    unchangedBut (fun l => l.inBytes a bs.length ∨ l = .outcome) s ((s.storeBytes a bs).setOutcome .ok) :=
  (unchangedBut.refl.storeBytes fun q hlo hhi => .inl ⟨q, rfl, hlo, hhi⟩).setOutcome (.inr rfl)

theorem State.readByte_regBlock (hwf : Memory.wf s.mem = true) {x k : Reg} (hx : s.dataAddr x.val ≤ 4095)
    (hk : k ≤ x) : (s.storeBytes (s.dataAddr 0) (s.regBlock x)).readByte (s.dataAddr k.val) = s.getV k := by
  have hkx : k.val ≤ x.val := hk
  have hlen : k.val < (s.regBlock x).length := s.length_regBlock x ▸ Nat.lt_succ_of_le hkx
  have haddr : s.i.toNat + x.val ≤ 4095 := hx
  exact (State.readByte_storeBytes_inside hwf k.val hlen (show s.i.toNat + k.val < 4096 by omega)).trans
    (s.getElem_regBlock x k.val hlen k.isLt)

/-- Settles O35: each byte of the block reads back as its register; the rest by the frame of the store. -/
theorem blockStoreCopiesTheRegisters : Obligations.BlockStoreCopiesTheRegisters := by
  refine fun x s hwf hx => ⟨_, exec_ldMemVx_inRange x hx, rfl, fun k hk => State.readByte_regBlock hwf hx hk, ?frame⟩
  exact s.length_regBlock x ▸ unchangedBut_storeBytes_complete s _ _

theorem State.readByte_bcdDigits (hwf : Memory.wf s.mem = true) (h : s.dataAddr 2 ≤ 4095) (b : Byte) (k : Nat)
    (hk : k < 3) : (s.storeBytes (s.dataAddr 0) (bcdDigits b)).readByte (s.dataAddr k) = (bcdDigits b)[k] := by
  have haddr : s.i.toNat + 2 ≤ 4095 := h
  exact State.readByte_storeBytes_inside hwf (bs := bcdDigits b) k hk (show s.i.toNat + k < 4096 by omega)

/-- Settles O34: each digit reads back; the rest by the frame of the store. -/
theorem bcdStoresTheDigits : Obligations.BcdStoresTheDigits := by
  intro x s hwf h
  have hread := State.readByte_bcdDigits hwf h (s.getV x)
  exact ⟨_, exec_ldB_inRange x h, rfl,
    (congrArg BitVec.toNat (hread 0 (by decide))).trans (BitVec.toNat_udiv ..),
    (congrArg BitVec.toNat (hread 1 (by decide))).trans ((BitVec.toNat_umod ..).trans (by rw [BitVec.toNat_udiv]; rfl)),
    (congrArg BitVec.toNat (hread 2 (by decide))).trans (BitVec.toNat_umod ..),
    unchangedBut_storeBytes_complete s _ (bcdDigits (s.getV x))⟩

/-! ### Loads -/

/-- Settles O36: a register up to `x` holds its byte of the block; the rest by the frame of the load. -/
theorem blockLoadCopiesTheBytes : Obligations.BlockLoadCopiesTheBytes := by
  refine fun x s hx => ⟨_, exec_ldVxMem_inRange x hx, rfl, fun k hk => ?loaded, ?frame⟩
  case loaded =>
    have hkx : k.val < x.val + 1 := Nat.lt_succ_of_le hk
    rw [State.setOutcome_getV, s.getV_loadBlock (x.val + 1) x.isLt k, if_pos hkx]
  case frame =>
    refine (unchangedBut.refl.loadBlock fun k hk => .inl ⟨_, rfl, ?_⟩).setOutcome (.inr rfl)
    exact (Nat.mod_le k 16).trans (Nat.lt_succ_iff.mp hk)

/-! ### The next fetch (R56) -/

/-- The word fetched at an address is made of the bytes there and one further. -/
theorem State.fetchWord_setPc (t : State) {w : Word} {a : Nat} (hw : w.toNat = a) :
    (t.setPc w).fetchWord = wordOfBytes (t.readByte a) (t.readByte (a + 1)) := by
  subst hw
  rfl

theorem State.toNat_i_add (s : State) {k : Nat} (h : s.i.toNat + k ≤ 4095) :
    (s.i + BitVec.ofNat 16 k).toNat = s.i.toNat + k := by
  simp only [BitVec.toNat_add, BitVec.toNat_ofNat]
  omega

/-- Two neighbouring bytes of a block stored at `I` are the word fetched from the first of them. -/
theorem State.fetchWord_storeBytes (hwf : Memory.wf s.mem = true) {bs : List Byte} (k : Nat) (hk : k + 1 < bs.length)
    (h : s.i.toNat + (k + 1) < 4096) (o : StepOutcome) :
    (((s.storeBytes (s.dataAddr 0) bs).setOutcome o).setPc (s.i + BitVec.ofNat 16 k)).fetchWord =
      wordOfBytes bs[k] bs[k + 1] := by
  rw [State.fetchWord_setPc _ (s.toNat_i_add (k := k) (by omega))]
  exact congrArg₂ wordOfBytes (State.readByte_storeBytes_inside hwf k (by omega) (show s.i.toNat + k < 4096 by omega))
    (State.readByte_storeBytes_inside hwf (k + 1) hk h)

theorem bcdDigits_eq (b : Byte) : bcdDigits b =
    [BitVec.ofNat 8 (b.toNat / 100), BitVec.ofNat 8 (b.toNat / 10 % 10), BitVec.ofNat 8 (b.toNat % 10)] := by
  revert b
  decide +kernel

/-- Settles O38: the fetch reads two neighbouring bytes of the stored block. -/
theorem storeIsSeenByTheNextFetch : Obligations.StoreIsSeenByTheNextFetch := by
  refine fun x s t hwf => ⟨fun hx hexec j k hjk hk => ?block, fun h hexec => ?digits⟩
  case block =>
    cases (exec_ldMemVx_inRange x hx).symm.trans hexec
    obtain ⟨k, hk16⟩ := k
    obtain rfl : k = j.val + 1 := hjk
    have hkx : j.val + 1 ≤ x.val := hk
    have hlen := s.length_regBlock x
    have haddr : s.i.toNat + x.val ≤ 4095 := hx
    rw [State.fetchWord_storeBytes hwf j.val (by omega) (by omega), s.getElem_regBlock x _ _ j.isLt,
      s.getElem_regBlock x _ _ hk16]
  case digits =>
    cases (exec_ldB_inRange x h).symm.trans hexec
    have haddr : s.i.toNat + 2 ≤ 4095 := h
    have hfetch := State.fetchWord_storeBytes hwf (bs := bcdDigits (s.getV x)) (o := .ok)
    simp only [bcdDigits_eq] at hfetch ⊢
    exact ⟨BitVec.add_zero s.i ▸ hfetch 0 (show 1 < 3 by decide) (by omega),
      hfetch 1 (show 2 < 3 by decide) (by omega)⟩

end Sys2Proof.Machine
end

section
/-! PROOFS of `DRW` (spec/44_display.md sections 2 and 3): its effect on the cells and on `VF`, the same sprite drawn
twice, and the pseudocode. -/

namespace Sys2Proof.Machine

variable {s t : State} {x y : Reg}

theorem exec_drw_inRange (x y : Reg) (n : Fin 16) (h : n.val = 0 ∨ s.dataAddr (n.val - 1) ≤ 4095) :
    exec (.drw x y n) s = .next ((((s.setV vf 0).drawRows x y n.val).setDrawFlag true).setOutcome .ok) := by
  refine s.checkRange_pass ?_
  simp only [State.dataAddr_eq] at h ⊢
  omega

/-! ### Cells and collision -/

/-- Where a 1-bit lands depends on memory, `I` and the two coordinate registers only. -/
theorem State.spriteDot_congr (hi : t.i = s.i) (hbyte : ∀ a, t.readByte a = s.readByte a) (hx : t.getV x = s.getV x)
    (hy : t.getV y = s.getV y) (n : Nat) (row : Fin 32) (col : Fin 64) :
    t.spriteDot x y n row col ↔ s.spriteDot x y n row col := by
  simp only [State.spriteDot, hi, hbyte, hx, hy]

theorem State.spriteDot_setV_vf (hx : x ≠ vf) (hy : y ≠ vf) (b : Byte) (n : Nat) (row : Fin 32) (col : Fin 64) :
    (s.setV vf b).spriteDot x y n row col ↔ s.spriteDot x y n row col :=
  State.spriteDot_congr (s := s) (t := s.setV vf b) rfl (fun _ => rfl) (s.getV_setV_of_ne b hx)
    (s.getV_setV_of_ne b hy) n row col

/-- Settles O40: the rows drawn from the state with `VF` cleared; the rest by the frame of the compositor. -/
theorem drawXorsTheSprite : Obligations.DrawXorsTheSprite := by
  intro x y n s hx hy h
  have hdot := State.spriteDot_setV_vf (s := s) hx hy 0 n.val
  obtain ⟨hcells, hhit, hmiss⟩ := (s.setV vf 0).drawRows_spec hx hy n.val n.isLt.le
  simp only [hdot, State.setV_cell, State.getV_setV_self] at hcells hhit hmiss
  refine ⟨_, exec_drw_inRange x y n h, rfl, rfl, fun row col => (hcells row col).1, fun row col => (hcells row col).2,
    hhit, hmiss, ?frame⟩
  exact (((unchangedBut.refl.setV (.inl rfl)).drawRows (.inl rfl) fun row col =>
    .inr (.inl ⟨row, col, rfl⟩)).setDrawFlag (.inr (.inr (.inl rfl)))).setOutcome (.inr (.inr (.inr rfl)))

/-- Settles O42: the first draw moves neither the sprite nor its place, so the second toggles the same cells. -/
theorem drawingTwiceRestoresTheDisplay : Obligations.DrawingTwiceRestoresTheDisplay := by
  intro x y n s hx hy h
  obtain ⟨t, ht, -, -, htoggle, hkeep, -, -, hframe⟩ := drawXorsTheSprite x y n s hx hy h
  have hi : t.i = s.i := hframe .index (by simp)
  have hbyte : ∀ a, t.readByte a = s.readByte a := fun a => hframe (.byte a) (by simp)
  have hreg : ∀ r, r ≠ vf → t.getV r = s.getV r := fun r hr => hframe (.reg r) (by simp [hr])
  have hdot := State.spriteDot_congr (n := n.val) hi hbyte (hreg x hx) (hreg y hy)
  have hrange : n.val = 0 ∨ t.dataAddr (n.val - 1) ≤ 4095 := by
    rw [State.dataAddr_eq, hi]
    exact h
  obtain ⟨u, hu, -, -, htoggle', hkeep', hhit, hmiss, -⟩ := drawXorsTheSprite x y n t hx hy hrange
  simp only [hdot] at htoggle' hkeep' hhit hmiss
  have hlit : (∃ row col, s.spriteDot x y n.val row col ∧ t.cell row col = true) ↔
      ∃ row col, s.spriteDot x y n.val row col ∧ s.cell row col = false := by
    refine exists_congr fun row => exists_congr fun col => and_congr_right fun hd => ?_
    rw [htoggle row col hd, Bool.not_eq_true']
  refine ⟨t, u, ht, hu, fun row col => ?restored, ⟨fun hone => ?collides, fun hdark => hhit (hlit.mpr hdark)⟩⟩
  case restored =>
    by_cases hd : s.spriteDot x y n.val row col
    · rw [htoggle' row col hd, htoggle row col hd, Bool.not_not]
    · rw [hkeep' row col hd, hkeep row col hd]
  case collides =>
    by_contra hnone
    have hzero := hmiss (hlit.not.mpr hnone)
    exact absurd (hone.symm.trans hzero) (by decide)

/-! ### The pseudocode -/

/-- The columns of a row, left to right. -/
theorem State.drawCols_eq_foldl (s : State) (x y : Reg) (row : Nat) (bits : Byte) (cols : Nat) :
    s.drawCols x y row bits cols =
      (List.range cols).foldl
        (fun t col => if bits.getLsbD (7 - col) = true then t.drawDot x y row col else t) s := by
  induction cols with
  | zero => rfl
  | succ col ih => simp only [State.drawCols, ih, List.range_succ, List.foldl_append, List.foldl_cons, List.foldl_nil]

/-- The rows of a sprite, top to bottom; no row changes the memory that the next reads. -/
theorem State.drawRows_eq_foldl (s : State) (x y : Reg) (rows : Nat) :
    s.drawRows x y rows =
      (List.range rows).foldl (fun above row => above.drawCols x y row (s.readByte (s.i.toNat + row)) 8) s := by
  induction rows with
  | zero => rfl
  | succ row ih =>
    rw [List.range_succ, List.foldl_append, ← ih]
    simp [State.drawRows]

/-- Settles O41: the compositor unrolled row by row and column by column. -/
theorem drawRunsRowByRowBitByBit : Obligations.DrawRunsRowByRowBitByBit := by
  intro x y n s h
  rw [exec_drw_inRange x y n h, State.drawRows_eq_foldl]
  simp only [State.drawCols_eq_foldl]
  rfl

end Sys2Proof.Machine
end

section
/-! PROOFS of the step and of the events around it (spec/40_engine_step.md, spec/60_exceptions.md section 1,
spec/70_reset_and_hazards.md): that a step always returns, what it runs, in which order the agenda is served, what
`reset` leaves, and the two instructions that stay where they are. -/

namespace Sys2Proof.Machine

variable {s t : State}

/-! ### Frames compared -/

theorem unchangedBut.mono {P Q : Loc → Prop} (h : unchangedBut P s t) (hPQ : ∀ l, P l → Q l) : unchangedBut Q s t :=
  fun l hl => h l fun hp => hl (hPQ l hp)

theorem unchangedBut.trans {P : Loc → Prop} {u : State} (h : unchangedBut P s t) (h' : unchangedBut P t u) :
    unchangedBut P s u := by
  intro l hl
  have hst := h l hl
  have htu := h' l hl
  cases l <;> exact htu.trans hst

/-- A piece that holds again what it held counts as unchanged, written or not. -/
theorem unchangedBut.restored {P : Loc → Prop} {l₀ : Loc} (h : unchangedBut (fun l => l = l₀ ∨ P l) s t)
    (hl₀ : l₀.same s t) : unchangedBut P s t := by
  intro l hl
  by_cases he : l = l₀
  · exact he ▸ hl₀
  · exact h l (not_or.mpr ⟨he, hl⟩)

/-! ### A step returns -/

/-- The pieces of the core: not those the model keeps about the host, nor the mark that a `reset` came (logs 4, 5,
7). -/
def Loc.isCore (l : Loc) : Prop := ¬ l.isHost ∧ l ≠ .started

theorem isCore_of_mayWrite {i : Instr} {l : Loc} (h : mayWrite i s l) : l.isCore := by
  refine ⟨?host, ?started⟩
  case host => rintro (rfl | rfl | rfl | rfl) <;> cases i <;> simp [mayWrite, Loc.inBytes] at h
  case started => rintro rfl; cases i <;> simp [mayWrite, Loc.inBytes] at h

/-- The fetch, decode and execution of a step always answer a next state, and change the core only. -/
theorem State.runInstruction_returns (s : State) : ∃ t, s.runInstruction = .next t ∧ unchangedBut Loc.isCore s t := by
  have hpc : Loc.isCore .pc := by simp [Loc.isCore, Loc.isHost]
  have ho : Loc.isCore .outcome := by simp [Loc.isCore, Loc.isHost]
  by_cases hfetch : 4095 < s.pc.toNat + 1
  · exact ⟨_, s.runInstruction_fetchFault hfetch, unchangedBut.refl.setOutcome ho⟩
  · have hfetch : s.pc.toNat + 1 ≤ 4095 := by omega
    cases hd : decodeWord s.fetchWord with
    | error e => exact ⟨_, s.runInstruction_unknown hfetch hd, (unchangedBut.refl.setPc hpc).setOutcome ho⟩
    | ok i =>
      obtain ⟨t, ht, hframe⟩ := exec_framed i (s.setPc (s.pc + 2))
      exact ⟨t, (s.runInstruction_exec hfetch hd).trans ht,
        (unchangedBut.refl.setPc hpc).trans (hframe.mono fun _ => isCore_of_mayWrite)⟩

/-- Once started, a `step` event returns, with the core still started and the host's next events on the agenda. -/
theorem State.stepEvent_returns (hs : s.started = true) :
    ∃ t, s.stepEvent = .next t ∧ t.started = true ∧ t.agenda = s.freshAgenda := by
  obtain ⟨t, ht, hframe⟩ := s.runInstruction_returns
  have hstarted : t.started = s.started := hframe .started (by simp [Loc.isCore])
  have hagenda : t.agenda = s.agenda := hframe .agenda (by simp [Loc.isCore, Loc.isHost])
  have hsamples : t.samples = s.samples := hframe .samples (by simp [Loc.isCore, Loc.isHost])
  have hfresh : t.freshAgenda = s.freshAgenda := by rw [State.freshAgenda, State.freshAgenda, hagenda, hsamples]
  exact ⟨t.hostTurn, (s.whenStarted_of_started hs).trans (congrArg (mapNext _) ht), hstarted.trans hs, hfresh⟩

/-- Once started, every event returns, with the core still started; it leaves the agenda as it stands, but for a `step`
with nothing more announced. -/
theorem State.handle_returns (hs : s.started = true) (e : HostEvent) :
    ∃ t, s.handle e = .next t ∧ t.started = true ∧
      (t.agenda = s.agenda ∨
        (s.agenda = [] ∧ (∃ keys rnd, e = .step keys rnd) ∧ t.agenda = Config.freeEvents s.samples)) := by
  cases e with
  | reset image => exact ⟨_, rfl, rfl, .inl rfl⟩
  | tick => exact ⟨_, State.handle_tick hs, hs, .inl rfl⟩
  | frameAck => exact ⟨_, State.handle_frameAck hs, hs, .inl rfl⟩
  | step keys rnd =>
    obtain ⟨t, ht, hstarted, hagenda⟩ := State.stepEvent_returns (s := s.setInputs keys rnd) hs
    refine ⟨t, ht, hstarted, ?_⟩
    cases hrest : s.agenda with
    | nil => exact .inr ⟨rfl, ⟨keys, rnd, rfl⟩, hagenda.trans ((s.setInputs keys rnd).freshAgenda_nil hrest)⟩
    | cons e rest => exact .inl (hagenda.trans ((s.setInputs keys rnd).freshAgenda_cons hrest))

/-- Settles O9: with nothing announced the `step` event returns, and so does every announced event. -/
theorem everyStepReturns : Obligations.EveryStepReturns := by
  intro s hs
  cases hagenda : s.agenda with
  | nil =>
    obtain ⟨t, ht, hstarted, -⟩ := State.stepEvent_returns hs
    exact ⟨t, (step_of_nil s hagenda).trans ht, hstarted⟩
  | cons e rest =>
    obtain ⟨t, ht, hstarted, -⟩ := State.handle_returns (s := s.setAgenda rest) hs e
    exact ⟨t, (step_of_cons s hagenda).trans ht, hstarted⟩

/-- Settles O11: the step serves the first event with the rest on the agenda. -/
theorem agendaIsServedInOrder : Obligations.AgendaIsServedInOrder := by
  intro s e rest hs hagenda
  obtain ⟨t, ht, -, hrest⟩ := State.handle_returns (s := s.setAgenda rest) hs e
  exact ⟨t, (step_of_cons s hagenda).trans ht, ht, hrest⟩

/-! ### What a step runs -/

theorem decodeWord_of_decode_two {hi lo : Byte} {i : Instr} (h : decode [hi, lo] = .ok (i, [])) :
    decodeWord (wordOfBytes hi lo) = .ok i := by
  cases hd : decodeWord (wordOfBytes hi lo) with
  | error e => simp [decode, hd] at h
  | ok j => simpa [decode, hd] using h

/-- Settles O6: the `step` event runs the instruction, with the inputs of the event where it is announced. -/
theorem stepRunsTheDecodedInstruction : Obligations.StepRunsTheDecodedInstruction := by
  intro s i hs hpc hdecode
  have hd : decodeWord s.fetchWord = .ok i := decodeWord_of_decode_two hdecode
  refine ⟨fun hnil => (step_of_nil s hnil).trans (State.stepEvent_exec hs hpc hd), fun keys rnd rest hcons => ?_⟩
  exact (step_of_cons s hcons).trans
    (State.stepEvent_exec (s := (s.setAgenda rest).setInputs keys rnd) hs hpc hd)

/-- Once started, the `step` event past the end of memory is the report with `pc` where it was, and then the host's
turn. -/
theorem State.stepEvent_fetchFault (hs : s.started = true) (hpc : 4095 < s.pc.toNat + 1) :
    s.stepEvent =
      .next (s.setOutcome (.fault (.memoryOutOfRange s.pc .fetch s.pc.toNat (s.pc.toNat + 1)))).hostTurn :=
  calc s.stepEvent
    _ = mapNext State.hostTurn s.runInstruction := s.whenStarted_of_started hs
    _ = _ := congrArg _ (s.runInstruction_fetchFault hpc)

/-- A fetch past the end of memory is reported under any inputs and with any agenda left. -/
theorem State.stepEvent_reports_fetch (hs : s.started = true) (hpc : 4095 < s.pc.toNat + 1) (keys : Word) (rnd : Byte)
    (rest : List HostEvent) :
    ∃ t, ((s.setAgenda rest).setInputs keys rnd).stepEvent = .next t ∧ t.pc = s.pc ∧
      t.outcome = .fault (.memoryOutOfRange s.pc .fetch s.pc.toNat (s.pc.toNat + 1)) ∧
      unchangedBut (fun l => l = .outcome ∨ l.isHost) s t := by
  refine ⟨_, State.stepEvent_fetchFault (s := (s.setAgenda rest).setInputs keys rnd) hs hpc, ?pc, rfl, ?frame⟩
  case pc => simp
  case frame =>
    have hhost : ∀ l : Loc, l.isHost → l = .outcome ∨ l.isHost := fun _ h => .inr h
    exact ((unchangedBut.refl.announce hhost).setOutcome (.inl rfl)).hostTurn hhost

/-- Settles O8: the report of the fetch, for the event itself and for the machine's step. -/
theorem fetchBeyondMemoryIsReported : Obligations.FetchBeyondMemoryIsReported := by
  refine fun s hs hpc => ⟨State.stepEvent_reports_fetch hs hpc s.keys s.rnd s.agenda, fun hnext => ?_⟩
  obtain ⟨keys, rnd, rest, hstep⟩ := step_of_stepNext hnext
  rw [hstep]
  exact State.stepEvent_reports_fetch hs hpc keys rnd rest

/-! ### Before the first `reset` -/

theorem State.whenStarted_of_not_started {body : Result} (h : s.started = false) :
    s.whenStarted body = .refused .beforeReset := by
  simp [State.whenStarted, h]

/-- Settles O10: `reset` is served as ever; every other event asks first whether the core is started. -/
theorem nothingButResetBeforeReset : Obligations.NothingButResetBeforeReset := by
  refine fun s hs => ⟨fun image rest hreset => ⟨_, step_of_cons s hreset, rfl⟩, fun hnot => ?_⟩
  cases hagenda : s.agenda with
  | nil => exact (step_of_nil s hagenda).trans (State.whenStarted_of_not_started hs)
  | cons e rest =>
    refine (step_of_cons s hagenda).trans ?_
    cases e with
    | reset image => exact absurd hagenda (hnot image rest)
    | step | tick | frameAck => exact State.whenStarted_of_not_started hs

/-! ### `reset` -/

/-- Below the program every byte reads as it does while nothing has been written. -/
theorem State.readByte_reboot_below (s : State) (image : List Byte) {a : Nat} (h : a < 0x200) :
    (s.reboot image).readByte a = Memory.unlisted a :=
  read_bootMemory_other a (.inl h)

/-- Settles O15: each piece from the state after `reset`, the bytes from the font and the zeros below the program. -/
theorem resetInitialisesAllState : Obligations.ResetInitialisesAllState := by
  refine fun s image => ⟨s.reboot image, rfl, rfl, rfl, rfl, rfl, rfl, rfl, fun r => ?register, fun k => ?slot,
    fun row col => ?cell, fun k hk => ?font, fun a ha hout => ?zero⟩
  case register => exact Vector.getElem_replicate r.isLt
  case slot => exact Vector.getElem_replicate k.isLt
  case cell => simp [State.cell, State.reboot, State.reset]
  case font => exact (s.readByte_reboot_below image (by omega)).trans (Memory.unlisted_font hk)
  case zero => exact (s.readByte_reboot_below image ha).trans (Memory.unlisted_zero hout)

/-- Settles O16: nothing of the image is loadable, which is what an empty image loads. -/
theorem overlongImageLoadsNothing : Obligations.OverlongImageLoadsNothing := by
  intro s image hlong
  have hreset : s.handle (.reset image) = s.handle (.reset []) := by
    simp only [State.handle, State.reboot, bootMemory, loadable_of_long hlong]
    rfl
  exact ⟨hreset, s.reboot [], hreset, fun a ha _ => State.readByte_reboot_rest (image := []) ha⟩

/-- Settles O56: the fixed state after `reset`. -/
theorem resetStateMeetsTheInvariant : Obligations.ResetStateMeetsTheInvariant := by
  refine ⟨reset_memory_wf, ⟨by decide, fun k => ?slot⟩, rfl⟩
  have hzero : State.reset.slot k = 0 := Vector.getElem_replicate k.isLt
  rw [hzero]
  decide

/-! ### Instructions that stay where they are -/

/-- Settles O24: the word is that of the `JP`, whatever inputs come with the step, and its target is where `pc` was. -/
theorem selfJumpIsAFixedPoint : Obligations.SelfJumpIsAFixedPoint := by
  intro s addr hs hnext haddr hpc hw
  have hd : decodeWord s.fetchWord = .ok (.jp addr) := hw ▸ decodeWord_encode (.jp addr)
  obtain ⟨keys, rnd, rest, hstep⟩ := step_of_stepNext hnext
  have hrun := State.stepEvent_exec (s := (s.setAgenda rest).setInputs keys rnd) hs
    (show s.pc.toNat + 1 ≤ 4095 by omega) hd
  refine ⟨_, hstep.trans hrun, rfl, unchangedBut.restored (l₀ := .pc) ?frame ?pc⟩
  case frame =>
    have hhost : ∀ l : Loc, l.isHost → l = .pc ∨ l = .outcome ∨ l.isHost := fun _ h => .inr (.inr h)
    exact ((((unchangedBut.refl.announce hhost).setPc (.inl rfl)).setPc (.inl rfl)).setOutcome
      (.inr (.inl rfl))).hostTurn hhost
  case pc => exact BitVec.eq_of_toNat_eq ((toNat_addrOperand addr).trans hpc.symm)

/-- Settles O49: the wait takes back the advance of `pc`, announced or not. -/
theorem waitingStepLeavesTheState : Obligations.WaitingStepLeavesTheState := by
  intro s x hs hpc hnext hw
  have hd : decodeWord s.fetchWord = .ok (.ldVxK x) := hw ▸ decodeWord_encode (.ldVxK x)
  obtain ⟨rnd, rest, hstep⟩ : ∃ rnd rest, step s = ((s.setAgenda rest).setInputs 0 rnd).stepEvent := by
    rcases hnext with ⟨hnil, hkeys⟩ | ⟨rnd, rest, hcons⟩
    · exact ⟨s.rnd, s.agenda, by rw [step_of_nil s hnil, ← hkeys]; rfl⟩
    · exact ⟨rnd, rest, step_of_cons s hcons⟩
  have hrun := State.stepEvent_exec (s := (s.setAgenda rest).setInputs 0 rnd) hs hpc hd
  rw [exec_ldVxK_wait x rfl] at hrun
  refine ⟨_, hstep.trans hrun, rfl, unchangedBut.restored (l₀ := .pc) ?frame ?pc⟩
  case frame =>
    have hhost : ∀ l : Loc, l.isHost → l = .pc ∨ l = .outcome ∨ l.isHost := fun _ h => .inr (.inr h)
    exact ((((unchangedBut.refl.announce hhost).setPc (.inl rfl)).setPc (.inl rfl)).setOutcome
      (.inr (.inl rfl))).hostTurn hhost
  case pc => exact add_sub_cancel_right s.pc 2

end Sys2Proof.Machine
end

section
/-! PROOFS of what an instruction may change and when it reports a fault (spec/10_state.md R22, spec/60_exceptions.md
sections 1 and 2): each instruction has at most one check, reports exactly where it fails, and then changes nothing
else. -/

namespace Sys2Proof.Machine

variable {s t u : State} {f : Fault} {i : Instr}

/-- Settles O50: the frame of `exec`, built instruction by instruction. -/
theorem noInstructionWritesOutsideItsList : Obligations.NoInstructionWritesOutsideItsList := fun _ _ _ => exec_frame

/-! ### The check of an instruction (R197) -/

/-- The fault is the one of the fetch (R194). -/
def Fault.isFetch (f : Fault) : Prop := ∃ pc0 lo hi, f = .memoryOutOfRange pc0 .fetch lo hi

/-- The result is a next state that reports no fault. -/
def Completes (r : Result) : Prop := ∃ t, r = .next t ∧ t.noFault

/-- The result reports a fault that is not the fetch's, and changes nothing else (R196). -/
def Reports (s : State) (r : Result) : Prop := ∃ f, r = s.raise f ∧ ¬ f.isFetch

/-- The result reports a fault exactly where the check fails. -/
def Checked (fails : Prop) (s : State) (r : Result) : Prop := (fails ∧ Reports s r) ∨ (¬ fails ∧ Completes r)

theorem completes_complete (t : State) : Completes t.complete := ⟨_, rfl, nofun⟩

theorem completes_wait (t : State) : Completes t.wait := ⟨_, rfl, nofun⟩

theorem completes_skipIf (s : State) (taken : Bool) : Completes (s.skipIf taken) := by
  rw [s.skipIf_eq]
  exact completes_complete _

theorem not_noFault_report (s : State) (f : Fault) : ¬ (s.setOutcome (.fault f)).noFault := fun h => h f rfl

theorem Completes.checkRange {fails : Prop} {access : Access} {lo count : Nat} {body : Result} (h : Completes body)
    (haccess : access ≠ .fetch) (hfails : fails ↔ 0 < count ∧ 4095 < lo + count - 1) :
    Checked fails s (s.checkRange access lo count body) := by
  by_cases hf : fails
  · refine .inl ⟨hf, _, s.checkRange_fail (hfails.mp hf), ?_⟩
    rintro ⟨pc0, lo, hi, he⟩
    cases he
    exact haccess rfl
  · refine .inr ⟨hf, ?_⟩
    rw [s.checkRange_pass (by have := mt hfails.mpr hf; omega)]
    exact h

theorem Completes.checkKey {x : Reg} {body : Result} (h : Completes body) :
    Checked (15 < (s.getV x).toNat) s (s.checkKey x body) := by
  by_cases hf : 15 < (s.getV x).toNat
  · exact .inl ⟨hf, _, s.checkKey_fail hf, nofun⟩
  · refine .inr ⟨hf, ?_⟩
    rw [s.checkKey_pass (by omega)]
    exact h

theorem checked_ret (s : State) : Checked (s.sp.val = 0) s (exec .ret s) := by
  by_cases hf : s.sp.val = 0
  · exact .inl ⟨hf, _, exec_ret_empty hf, nofun⟩
  · refine .inr ⟨hf, ?_⟩
    rw [exec_ret_pop ⟨s.sp.val - 1, by omega⟩ (show s.sp.val = s.sp.val - 1 + 1 by omega)]
    exact completes_complete _

theorem checked_call (addr : Addr) (s : State) : Checked (s.sp.val = 16) s (exec (.call addr) s) := by
  by_cases hf : s.sp.val = 16
  · exact .inl ⟨hf, _, exec_call_full addr hf, nofun⟩
  · refine .inr ⟨hf, ?_⟩
    rw [exec_call_push addr ⟨s.sp.val, by omega⟩ rfl]
    exact completes_complete _

theorem completes_ldVxK (x : Reg) (s : State) : Completes (exec (.ldVxK x) s) := by
  by_cases h : s.keys = 0
  · rw [exec_ldVxK_wait x h]
    exact completes_wait _
  · obtain ⟨k, -, -, -, hexec⟩ := exec_ldVxK_store x h
    rw [hexec]
    exact completes_complete _

theorem exec_checked (i : Instr) (s : State) : Checked (failsCheck i s) s (exec i s) := by
  cases i
  case ret => exact checked_ret s
  case call addr => exact checked_call addr s
  case skp | sknp => exact (completes_skipIf s _).checkKey
  case drw => exact (completes_complete _).checkRange (by decide) Iff.rfl
  case ldB => exact (completes_complete _).checkRange (by decide) (iff_and_self.mpr fun _ => by decide)
  case ldMemVx | ldVxMem =>
    exact (completes_complete _).checkRange (by decide) (iff_and_self.mpr fun _ => Nat.succ_pos _)
  case seImm | sneImm | seReg | sneReg => exact .inr ⟨id, completes_skipIf s _⟩
  case ldVxK x => exact .inr ⟨id, completes_ldVxK x s⟩
  case cls | jp | jpV0 | ldImm | addImm | ldReg | orReg | andReg | xorReg | addReg | subReg | shr | subn | shl | rnd
    | ldI | addI | ldF | ldVxDT | ldDTVx | ldSTVx => exact .inr ⟨id, completes_complete _⟩

/-- Settles O51: the one check of each instruction decides between the report and the completion. -/
theorem faultsExactlyWhereTheCheckFails : Obligations.FaultsExactlyWhereTheCheckFails := by
  intro i s
  rcases exec_checked i s with ⟨hf, f, hraise, -⟩ | ⟨hf, t, ht, hok⟩
  · exact ⟨_, hraise, iff_of_false (not_noFault_report s f) (not_not_intro hf)⟩
  · exact ⟨t, ht, iff_of_true hok hf⟩

/-! ### Faults of a step -/

theorem exec_fault (h : exec i s = .next t) (ho : t.outcome = .fault f) :
    t = s.setOutcome (.fault f) ∧ ¬ f.isFetch := by
  rcases exec_checked i s with ⟨-, f', hraise, hfetch⟩ | ⟨-, t', ht, hok⟩
  · cases hraise.symm.trans h
    cases ho
    exact ⟨rfl, hfetch⟩
  · cases ht.symm.trans h
    exact absurd ho (hok f)

/-- A step that faults did so in its fetch, with `pc` where it was, or after it, with `pc` two further. -/
theorem State.runInstruction_fault (h : s.runInstruction = .next t) (ho : t.outcome = .fault f) :
    (t = s.setOutcome (.fault f) ∧ ∃ lo hi, f = .memoryOutOfRange s.pc .fetch lo hi) ∨
    (t = (s.setPc (s.pc + 2)).setOutcome (.fault f) ∧ ¬ f.isFetch) := by
  by_cases hpc : 4095 < s.pc.toNat + 1
  · cases (s.runInstruction_fetchFault hpc).symm.trans h
    cases ho
    exact .inl ⟨rfl, _, _, rfl⟩
  · have hpc : s.pc.toNat + 1 ≤ 4095 := by omega
    cases hd : decodeWord s.fetchWord with
    | error e =>
      cases (s.runInstruction_unknown hpc hd).symm.trans h
      cases ho
      exact .inr ⟨rfl, nofun⟩
    | ok i => exact .inr (exec_fault ((s.runInstruction_exec hpc hd).symm.trans h) ho)

theorem State.stepEvent_next (h : s.stepEvent = .next u) : ∃ t, s.runInstruction = .next t ∧ u = t.hostTurn := by
  have hbody := State.whenStarted_next h
  obtain ⟨t, ht, -⟩ := s.runInstruction_returns
  rw [ht] at hbody
  cases hbody
  exact ⟨t, ht, rfl⟩

/-- Settles O52: a fault touches the outcome, and where it is not the fetch's `pc` has advanced; the host's turn after
it touches no piece of the core. -/
theorem faultsArePrecise : Obligations.FaultsArePrecise := by
  intro s u f h ho
  obtain ⟨t, ht, rfl⟩ := State.stepEvent_next h
  have hhost : ∀ l : Loc, l.isHost → l = .pc ∨ l = .outcome ∨ l.isHost := fun _ h => .inr (.inr h)
  rcases State.runInstruction_fault ht ho with ⟨rfl, hfetch⟩ | ⟨rfl, hfetch⟩
  · exact ⟨(unchangedBut.refl.setOutcome (.inr (.inl rfl))).hostTurn hhost, fun _ => rfl,
      fun hnot => absurd hfetch hnot⟩
  · refine ⟨((unchangedBut.refl.setPc (.inl rfl)).setOutcome (.inr (.inl rfl))).hostTurn hhost, ?_, fun _ => rfl⟩
    rintro ⟨lo, hi, rfl⟩
    exact absurd ⟨s.pc, lo, hi, rfl⟩ hfetch

end Sys2Proof.Machine
end

section
/-! PROOFS of the machine's invariant (spec/10_state.md sections 3 and 12): one rule per operation that touches memory,
`pc` or the call stack, then every instruction and every event. -/

namespace Sys2Proof.Machine

variable {s t : State}

theorem State.Inv.slots_le (h : s.Inv) (k : Fin 16) : (s.slot k).toNat ≤ 4096 := h.2.1.2 k

theorem State.Inv.isStarted (h : s.Inv) : s.started = true := h.2.2

theorem toNat_add_two {w : Word} (h : w.toNat ≤ 4096) : (w + 2).toNat = w.toNat + 2 := by bv_omega

theorem toNat_sub_two {w : Word} (h : 2 ≤ w.toNat) : (w - 2).toNat = w.toNat - 2 := by bv_omega

/-! ### One rule per operation -/

theorem State.Inv.setPc (h : s.Inv) {w : Word} (hw : w.toNat ≤ 0x10FE) : (s.setPc w).Inv := by
  obtain ⟨hmem, ⟨-, hslots⟩, hstarted⟩ := h
  exact ⟨hmem, ⟨hw, hslots⟩, hstarted⟩

theorem State.Inv.setStack (h : s.Inv) {slots : Vector Word 16} (hslots : ∀ k : Fin 16, slots[k].toNat ≤ 4096)
    (depth : Fin 17) : (s.setStack slots depth).Inv := by
  obtain ⟨hmem, ⟨hpc, -⟩, hstarted⟩ := h
  exact ⟨hmem, ⟨hpc, hslots⟩, hstarted⟩

theorem State.Inv.storeBytes (h : s.Inv) (a : Nat) (bs : List Byte) : (s.storeBytes a bs).Inv := by
  obtain ⟨hmem, hpc, hstarted⟩ := h
  exact ⟨Memory.wf_writeBytes hmem a bs, hpc, hstarted⟩

theorem State.Inv.loadBlock (h : s.Inv) (n : Nat) : (s.loadBlock n).Inv := by
  rw [State.loadBlock_eq]
  exact h

theorem State.Inv.drawRows (h : s.Inv) (x y : Reg) (rows : Nat) : (s.drawRows x y rows).Inv := by
  obtain ⟨v, d, hrows⟩ := s.drawRows_eq x y rows
  rw [hrows]
  exact h

/-! ### The invariant of a result -/

/-- The result is a next state in the invariant. -/
def KeepsInv (r : Result) : Prop := ∃ t, r = .next t ∧ t.Inv

theorem State.Inv.complete (h : t.Inv) : KeepsInv t.complete := ⟨_, rfl, h⟩

theorem State.Inv.raise (h : t.Inv) (f : Fault) : KeepsInv (t.raise f) := ⟨_, rfl, h⟩

theorem KeepsInv.checkRange {access : Access} {lo count : Nat} {body : Result} (h : s.Inv) (hbody : KeepsInv body) :
    KeepsInv (s.checkRange access lo count body) := by
  unfold State.checkRange
  split
  · exact h.raise _
  · exact hbody

theorem KeepsInv.checkKey {x : Reg} {body : Result} (h : s.Inv) (hbody : KeepsInv body) :
    KeepsInv (s.checkKey x body) := by
  unfold State.checkKey
  split
  · exact h.raise _
  · exact hbody

/-! ### Instructions -/

theorem keepsInv_skipIf (h : s.Inv) (hpc : s.pc.toNat ≤ 4096) (taken : Bool) : KeepsInv (s.skipIf taken) := by
  rw [s.skipIf_eq]
  refine (h.setPc ?_).complete
  have hadvanced := toNat_add_two hpc
  split <;> omega

theorem keepsInv_ret (h : s.Inv) : KeepsInv (exec .ret s) := by
  by_cases h0 : s.sp.val = 0
  · rw [exec_ret_empty h0]
    exact h.raise _
  · rw [exec_ret_pop ⟨s.sp.val - 1, by omega⟩ (show s.sp.val = s.sp.val - 1 + 1 by omega)]
    exact ((h.setStack h.slots_le _).setPc ((h.slots_le _).trans (by decide))).complete

/-- `CALL` pushes an advanced `pc`, which is at most 4096, and jumps to a 12-bit address. -/
theorem keepsInv_call (h : s.Inv) (hpc : s.pc.toNat ≤ 4096) (addr : Addr) : KeepsInv (exec (.call addr) s) := by
  by_cases h16 : s.sp.val = 16
  · rw [exec_call_full addr h16]
    exact h.raise _
  · rw [exec_call_push addr ⟨s.sp.val, by omega⟩ rfl]
    refine ((h.setStack (fun k => ?_) _).setPc ?_).complete
    · by_cases hk : s.sp.val = k.val
      · rw [show (s.stack.set s.sp.val s.pc _)[k] = s.pc by simp [hk]]
        exact hpc
      · exact (congrArg BitVec.toNat (Vector.getElem_set_ne _ k.isLt hk)).trans_le (h.slots_le k)
    · rw [toNat_addrOperand]
      omega

theorem keepsInv_ldVxK (h : s.Inv) (hlo : 2 ≤ s.pc.toNat) (hhi : s.pc.toNat ≤ 4096) (x : Reg) :
    KeepsInv (exec (.ldVxK x) s) := by
  by_cases hkeys : s.keys = 0
  · rw [exec_ldVxK_wait x hkeys]
    have hwait : (s.setPc (s.pc - 2)).Inv := h.setPc (by rw [toNat_sub_two hlo]; omega)
    exact ⟨_, rfl, hwait⟩
  · obtain ⟨k, -, -, -, hexec⟩ := exec_ldVxK_store x hkeys
    exact ⟨_, hexec, h⟩

/-- Every instruction, in the state its body runs in: `pc` is two further than a word that was fetched. -/
theorem keepsInv_exec (h : s.Inv) (hlo : 2 ≤ s.pc.toNat) (hhi : s.pc.toNat ≤ 4096) (i : Instr) :
    KeepsInv (exec i s) := by
  cases i
  case ret => exact keepsInv_ret h
  case call addr => exact keepsInv_call h hhi addr
  case jp addr => exact (h.setPc (by rw [toNat_addrOperand]; omega)).complete
  case jpV0 addr =>
    have hv := (s.getV 0).isLt
    exact (h.setPc (by rw [s.toNat_addrOperand_add_wideV]; omega)).complete
  case seImm | sneImm | seReg | sneReg => exact keepsInv_skipIf h hhi _
  case skp | sknp => exact KeepsInv.checkKey h (keepsInv_skipIf h hhi _)
  case ldVxK x => exact keepsInv_ldVxK h hlo hhi x
  case drw x y n =>
    have hrows : ((s.setV vf 0).drawRows x y n.val).Inv := State.Inv.drawRows (s := s.setV vf 0) h x y n.val
    exact KeepsInv.checkRange h ⟨_, rfl, hrows⟩
  case ldB | ldMemVx => exact KeepsInv.checkRange h (h.storeBytes _ _).complete
  case ldVxMem => exact KeepsInv.checkRange h (h.loadBlock _).complete
  case cls | ldImm | addImm | ldReg | orReg | andReg | xorReg | addReg | subReg | shr | subn | shl | rnd | ldI | addI
    | ldF | ldVxDT | ldDTVx | ldSTVx => exact ⟨_, rfl, h⟩

/-! ### Events -/

/-- A fetch fault leaves `pc`; any other step starts at most at 4094. -/
theorem keepsInv_runInstruction (h : s.Inv) : KeepsInv s.runInstruction := by
  by_cases hfetch : 4095 < s.pc.toNat + 1
  · rw [s.runInstruction_fetchFault hfetch]
    exact h.raise _
  · have hpc : s.pc.toNat + 1 ≤ 4095 := by omega
    have hnext : (s.pc + 2).toNat = s.pc.toNat + 2 := toNat_add_two (by omega)
    have hadvanced : (s.setPc (s.pc + 2)).Inv := h.setPc (by omega)
    cases hd : decodeWord s.fetchWord with
    | error e =>
      rw [s.runInstruction_unknown hpc hd]
      exact hadvanced.raise _
    | ok i =>
      rw [s.runInstruction_exec hpc hd]
      exact keepsInv_exec hadvanced (by rw [State.setPc_pc]; omega) (by rw [State.setPc_pc]; omega) i

theorem keepsInv_stepEvent (h : s.Inv) : KeepsInv s.stepEvent := by
  obtain ⟨t, ht, hinv⟩ := keepsInv_runInstruction h
  exact ⟨t.hostTurn, (s.whenStarted_of_started h.isStarted).trans (congrArg (mapNext _) ht), hinv⟩

theorem State.inv_reboot (s : State) (image : List Byte) : (s.reboot image).Inv := by
  obtain ⟨-, hpc, hstarted⟩ := resetStateMeetsTheInvariant
  exact ⟨bootMemory_wf image, hpc, hstarted⟩

theorem keepsInv_handle (h : s.Inv) (e : HostEvent) : KeepsInv (s.handle e) := by
  cases e with
  | reset image => exact ⟨_, rfl, s.inv_reboot image⟩
  | step keys rnd => exact keepsInv_stepEvent (s := s.setInputs keys rnd) h
  | tick => exact ⟨_, State.handle_tick h.isStarted, h⟩
  | frameAck => exact ⟨_, State.handle_frameAck h.isStarted, h⟩

theorem keepsInv_step (h : s.Inv) : KeepsInv (step s) := by
  cases hagenda : s.agenda with
  | nil =>
    rw [step_of_nil s hagenda]
    exact keepsInv_stepEvent h
  | cons e rest =>
    rw [step_of_cons s hagenda]
    exact keepsInv_handle (s := s.setAgenda rest) h e

/-- Settles O55: every event answers a next state in the invariant. -/
theorem stepKeepsTheInvariant : Obligations.StepKeepsTheInvariant := by
  intro s t hinv h
  obtain ⟨t', ht', hinv'⟩ := keepsInv_step hinv
  cases ht'.symm.trans h
  exact hinv'

end Sys2Proof.Machine
end

section
/-! PROOFS of what few instructions read: the two inputs (spec/40_engine_step.md R105) and the slots of the call stack
(spec/10_state.md section 4). An instruction that reads none of these pieces commutes with any change of them. -/

namespace Sys2Proof.Machine

variable {s t : State}

/-- Change the slots, the key vector and the random byte, each by a function of its own. -/
def State.mapPorts (g : Vector Word 16 → Vector Word 16) (k : Word → Word) (r : Byte → Byte) (s : State) : State :=
  { s with stack := g s.stack, keys := k s.keys, rnd := r s.rnd }

theorem State.setInputs_keys_eq_mapPorts (s : State) (keys : Word) :
    s.setInputs keys s.rnd = s.mapPorts id (fun _ => keys) id := rfl

theorem State.setInputs_rnd_eq_mapPorts (s : State) (rnd : Byte) :
    s.setInputs s.keys rnd = s.mapPorts id id (fun _ => rnd) := rfl

theorem State.setStack_eq_mapPorts (s : State) (slots : Vector Word 16) :
    s.setStack slots s.sp = s.mapPorts (fun _ => slots) id id := rfl

/-! ### Each operation commutes with the change -/

section

variable (g : Vector Word 16 → Vector Word 16) (k : Word → Word) (r : Byte → Byte)

theorem State.checkRange_mapPorts {access : Access} {lo count : Nat} {body body' : Result}
    (h : body' = mapNext (State.mapPorts g k r) body) :
    (s.mapPorts g k r).checkRange access lo count body' =
      mapNext (State.mapPorts g k r) (s.checkRange access lo count body) := by
  subst h
  unfold State.checkRange
  split <;> rfl

theorem State.skipIf_mapPorts (taken : Bool) :
    (s.mapPorts g k r).skipIf taken = mapNext (State.mapPorts g k r) (s.skipIf taken) := by
  cases taken <;> rfl

/-- The key skips, which read the key vector as it stands, whatever the other pieces hold. -/
theorem State.checkKey_skipIf_mapPorts (x : Reg) (taken : Bool) :
    (s.mapPorts g id r).checkKey x ((s.mapPorts g id r).skipIf taken) =
      mapNext (State.mapPorts g id r) (s.checkKey x (s.skipIf taken)) := by
  rw [State.skipIf_mapPorts]
  by_cases h : (s.getV x).toNat ≤ 15
  · rw [s.checkKey_pass h]
    exact State.checkKey_pass _ h
  · rw [s.checkKey_fail (by omega)]
    exact State.checkKey_fail _ (Nat.lt_of_not_le h)

theorem State.loadBlock_mapPorts (n : Nat) : (s.mapPorts g k r).loadBlock n = (s.loadBlock n).mapPorts g k r := by
  induction n with
  | zero => rfl
  | succ n ih => simp only [State.loadBlock, ih]; rfl

theorem State.drawDot_mapPorts (x y : Reg) (row col : Nat) :
    (s.mapPorts g k r).drawDot x y row col = (s.drawDot x y row col).mapPorts g k r := by
  cases h : s.cell (s.spriteRow y row) (s.spriteCol x col) with
  | false => rw [State.drawDot_dark x y h]; exact State.drawDot_dark x y h
  | true => rw [State.drawDot_lit x y h]; exact State.drawDot_lit x y h

theorem State.drawCols_mapPorts (x y : Reg) (row : Nat) (bits : Byte) (cols : Nat) :
    (s.mapPorts g k r).drawCols x y row bits cols = (s.drawCols x y row bits cols).mapPorts g k r := by
  induction cols with
  | zero => rfl
  | succ col ih =>
    simp only [State.drawCols, ih, State.drawDot_mapPorts]
    split <;> rfl

theorem State.drawRows_mapPorts (x y : Reg) (rows : Nat) :
    (s.mapPorts g k r).drawRows x y rows = (s.drawRows x y rows).mapPorts g k r := by
  induction rows with
  | zero => rfl
  | succ row ih =>
    simp only [State.drawRows, ih, State.drawCols_mapPorts]
    rfl

theorem exec_ldVxK_mapPorts (x : Reg) :
    exec (.ldVxK x) (s.mapPorts g id r) = mapNext (State.mapPorts g id r) (exec (.ldVxK x) s) := by
  have hkey : (s.mapPorts g id r).lowestKey = s.lowestKey := rfl
  simp only [exec, execLdVxK, hkey]
  cases s.lowestKey <;> rfl

theorem exec_ret_mapPorts : exec .ret (s.mapPorts id k r) = mapNext (State.mapPorts id k r) (exec .ret s) := by
  by_cases h : s.sp.val = 0
  · rw [exec_ret_empty h]
    exact exec_ret_empty (s := s.mapPorts id k r) h
  · have hsp : s.sp.val = s.sp.val - 1 + 1 := by omega
    rw [exec_ret_pop ⟨s.sp.val - 1, by omega⟩ hsp]
    exact exec_ret_pop (s := s.mapPorts id k r) ⟨s.sp.val - 1, by omega⟩ hsp

theorem exec_call_mapPorts (addr : Addr) :
    exec (.call addr) (s.mapPorts id k r) = mapNext (State.mapPorts id k r) (exec (.call addr) s) := by
  by_cases h : s.sp.val = 16
  · rw [exec_call_full addr h]
    exact exec_call_full (s := s.mapPorts id k r) addr h
  · rw [exec_call_push addr ⟨s.sp.val, by omega⟩ rfl]
    exact exec_call_push (s := s.mapPorts id k r) addr ⟨s.sp.val, by omega⟩ rfl

end

/-! ### Instructions -/

/-- The two instructions that use the slots of the call stack (R26). -/
def UsesSlots (i : Instr) : Prop := i = .ret ∨ ∃ addr, i = .call addr

/-- The three instructions that sample the key vector (R105). -/
def SamplesKeys (i : Instr) : Prop := ∃ x, i = .skp x ∨ i = .sknp x ∨ i = .ldVxK x

/-- The one instruction that samples the random byte (R105). -/
def SamplesRnd (i : Instr) : Prop := ∃ x imm, i = .rnd x imm

/-- An instruction commutes with every change of the pieces that it does not use. -/
theorem exec_mapPorts {i : Instr} {g : Vector Word 16 → Vector Word 16} {k : Word → Word} {r : Byte → Byte}
    (hg : UsesSlots i → g = id) (hk : SamplesKeys i → k = id) (hr : SamplesRnd i → r = id) (s : State) :
    exec i (s.mapPorts g k r) = mapNext (State.mapPorts g k r) (exec i s) := by
  cases i
  case ret =>
    obtain rfl := hg (.inl rfl)
    exact exec_ret_mapPorts k r
  case call addr =>
    obtain rfl := hg (.inr ⟨addr, rfl⟩)
    exact exec_call_mapPorts k r addr
  case skp x =>
    obtain rfl := hk ⟨x, .inl rfl⟩
    exact State.checkKey_skipIf_mapPorts g r x _
  case sknp x =>
    obtain rfl := hk ⟨x, .inr (.inl rfl)⟩
    exact State.checkKey_skipIf_mapPorts g r x _
  case ldVxK x =>
    obtain rfl := hk ⟨x, .inr (.inr rfl)⟩
    exact exec_ldVxK_mapPorts g r x
  case rnd x imm =>
    obtain rfl := hr ⟨x, imm, rfl⟩
    rfl
  case seImm | sneImm | seReg | sneReg => exact State.skipIf_mapPorts g k r _
  case drw x y n =>
    have hrows := State.drawRows_mapPorts (s := s.setV vf 0) g k r x y n.val
    exact State.checkRange_mapPorts g k r (congrArg (fun u => (u.setDrawFlag true).complete) hrows)
  case ldB | ldMemVx => exact State.checkRange_mapPorts g k r rfl
  case ldVxMem =>
    exact State.checkRange_mapPorts g k r (congrArg State.complete (State.loadBlock_mapPorts g k r _))
  case cls | jp | jpV0 | ldImm | addImm | ldReg | orReg | andReg | xorReg | addReg | subReg | shr | subn | shl | ldI
    | addI | ldF | ldVxDT | ldDTVx | ldSTVx => rfl

/-! ### The inputs -/

/-- No instruction changes the inputs. -/
theorem exec_inputs {i : Instr} (h : exec i s = .next t) : t.keys = s.keys ∧ t.rnd = s.rnd := by
  have hcore : unchangedBut Loc.isCore s t := (exec_frame h).mono fun _ => isCore_of_mayWrite
  exact ⟨hcore .keys (by simp [Loc.isCore, Loc.isHost]), hcore .rnd (by simp [Loc.isCore, Loc.isHost])⟩

/-- Settles O53: an instruction that does not sample an input commutes with its change, and leaves the other input as it
is. -/
theorem inputsMatterOnlyToTheirInstructions : Obligations.InputsMatterOnlyToTheirInstructions := by
  intro i s keys rnd
  obtain ⟨t, ht, -⟩ := exec_framed i s
  obtain ⟨htkeys, htrnd⟩ := exec_inputs ht
  refine ⟨fun hi => ?keys, fun hi => ?rnd⟩
  case keys =>
    have hnot : ¬ SamplesKeys i := fun ⟨x, h⟩ => by
      obtain ⟨h1, h2, h3⟩ := hi x
      exact h.elim h1 (·.elim h2 h3)
    rw [s.setInputs_keys_eq_mapPorts, exec_mapPorts (fun _ => rfl) (fun h => absurd h hnot) (fun _ => rfl), ht,
      mapNext_next, mapNext_next, ← htrnd, t.setInputs_keys_eq_mapPorts]
  case rnd =>
    have hnot : ¬ SamplesRnd i := fun ⟨x, imm, h⟩ => hi x imm h
    rw [s.setInputs_rnd_eq_mapPorts, exec_mapPorts (fun _ => rfl) (fun _ => rfl) (fun h => absurd h hnot), ht,
      mapNext_next, mapNext_next, ← htkeys, t.setInputs_rnd_eq_mapPorts]

/-! ### The slots -/

theorem mayWrite_slot {i : Instr} {k : Fin 16} :
    mayWrite i s (.slot k) ↔ (∃ addr, i = .call addr) ∧ k.val = s.sp.val := by
  cases i <;> simp [mayWrite, Loc.inBytes]

theorem mayWrite_depth {i : Instr} : mayWrite i s .depth ↔ UsesSlots i := by
  cases i <;> simp [mayWrite, Loc.inBytes, UsesSlots]

theorem exec_stack {i : Instr} (h : exec i s = .next t) (hi : ∀ addr, i ≠ .call addr) : t.stack = s.stack := by
  refine Vector.ext fun k hk => exec_frame h (.slot ⟨k, hk⟩) fun hw => ?_
  obtain ⟨⟨addr, hcall⟩, -⟩ := mayWrite_slot.mp hw
  exact hi addr hcall

theorem exec_call_slot {addr : Addr} (h : exec (.call addr) s = .next t) {k : Fin 16} (hk : k.val ≠ s.sp.val) :
    t.slot k = s.slot k :=
  exec_frame h (.slot k) fun hw => hk (mayWrite_slot.mp hw).2

/-- `CALL` stores the return address without reading a slot. -/
theorem exec_call_setStack (addr : Addr) (s : State) (slots : Vector Word 16) :
    mapNext (fun t => t.setStack slots t.sp) (exec (.call addr) (s.setStack slots s.sp)) =
      mapNext (fun t => t.setStack slots t.sp) (exec (.call addr) s) := by
  by_cases h : s.sp.val = 16
  · rw [exec_call_full addr h, exec_call_full (s := s.setStack slots s.sp) addr h]
    rfl
  · rw [exec_call_push addr ⟨s.sp.val, by omega⟩ rfl,
      exec_call_push (s := s.setStack slots s.sp) addr ⟨s.sp.val, by omega⟩ rfl]
    rfl

/-- No instruction but `RET` reads a slot. -/
theorem exec_setStack {i : Instr} (hi : i ≠ .ret) (s : State) (slots : Vector Word 16) :
    mapNext (fun t => t.setStack slots t.sp) (exec i (s.setStack slots s.sp)) =
      mapNext (fun t => t.setStack slots t.sp) (exec i s) := by
  by_cases hcall : ∃ addr, i = .call addr
  · obtain ⟨addr, rfl⟩ := hcall
    exact exec_call_setStack addr s slots
  · rw [s.setStack_eq_mapPorts, exec_mapPorts (fun h => absurd h (not_or.mpr ⟨hi, hcall⟩)) (fun _ => rfl)
      (fun _ => rfl), mapNext_mapNext]
    rfl

/-- `RET` reads at most the top slot. -/
theorem exec_ret_setStack (s : State) (slots : Vector Word 16)
    (htop : ∀ k : Fin 16, k.val + 1 = s.sp.val → slots[k] = s.slot k) :
    exec .ret (s.setStack slots s.sp) = mapNext (fun t => t.setStack slots t.sp) (exec .ret s) := by
  by_cases h : s.sp.val = 0
  · rw [exec_ret_empty h]
    exact exec_ret_empty (s := s.setStack slots s.sp) h
  · have hsp : s.sp.val = s.sp.val - 1 + 1 := by omega
    rw [exec_ret_pop ⟨s.sp.val - 1, by omega⟩ hsp,
      exec_ret_pop (s := s.setStack slots s.sp) ⟨s.sp.val - 1, by omega⟩ hsp,
      State.slot_setStack, htop _ hsp.symm]
    rfl

/-- An instruction but `CALL` leaves the depth or takes one off it. -/
theorem exec_sp_le {i : Instr} (h : exec i s = .next t) (hi : ∀ addr, i ≠ .call addr) : t.sp.val ≤ s.sp.val := by
  by_cases hret : i = .ret
  · subst hret
    by_cases h0 : s.sp.val = 0
    · cases (exec_ret_empty h0).symm.trans h
      exact le_rfl
    · have hsp : s.sp.val = s.sp.val - 1 + 1 := by omega
      cases (exec_ret_pop ⟨s.sp.val - 1, by omega⟩ hsp).symm.trans h
      exact Nat.sub_le ..
  · have hnot : ¬ UsesSlots i := not_or.mpr ⟨hret, fun ⟨addr, hcall⟩ => hi addr hcall⟩
    have hdepth : t.sp = s.sp := exec_frame h .depth fun hw => hnot (mayWrite_depth.mp hw)
    exact hdepth ▸ le_rfl

/-! ### Stale slots are never observed -/

/-- Whatever next state the one result is, the other is one that agrees with it on the live slots. -/
def AnswersAgree (r r' : Result) : Prop := ∀ t, r = .next t → ∃ t', r' = .next t' ∧ t.agreeOnLive t'

theorem State.agreeOnLive.next {t' : State} (h : t.agreeOnLive t') : AnswersAgree (.next t) (.next t') := by
  rintro _ ⟨⟩
  exact ⟨t', rfl, h⟩

theorem AnswersAgree.mapNext {r r' : Result} {f : State → State} (h : AnswersAgree r r')
    (hf : ∀ t t', t.agreeOnLive t' → (f t).agreeOnLive (f t')) :
    AnswersAgree (mapNext f r) (mapNext f r') := by
  intro u hu
  cases r with
  | next t =>
    cases hu
    obtain ⟨t', rfl, hagree⟩ := h t rfl
    exact ⟨f t', rfl, hf t t' hagree⟩
  | fault | refused => cases hu

theorem AnswersAgree.whenStarted {s' : State} {body body' : Result} (hs : s'.started = s.started)
    (h : AnswersAgree body body') : AnswersAgree (s.whenStarted body) (s'.whenStarted body') := by
  unfold State.whenStarted
  rw [hs]
  split
  · exact h
  · exact nofun

/-- The second state is the first with other slots, alike below the depth. -/
theorem State.agreeOnLive_iff {s' : State} : s.agreeOnLive s' ↔
    ∃ slots : Vector Word 16, s' = s.setStack slots s.sp ∧ ∀ k : Fin 16, k.val < s.sp.val → slots[k] = s.slot k := by
  constructor
  · exact fun ⟨hother, hlive⟩ => ⟨s'.stack, hother, hlive⟩
  · rintro ⟨slots, rfl, hlive⟩
    exact ⟨rfl, hlive⟩

section

variable {slots : Vector Word 16} (hlive : ∀ k : Fin 16, k.val < s.sp.val → slots[k] = s.slot k)

include hlive

theorem State.agreeOnLive_setStack : s.agreeOnLive (s.setStack slots s.sp) :=
  ⟨rfl, hlive⟩

theorem exec_call_agree (addr : Addr) :
    AnswersAgree (exec (.call addr) s) (exec (.call addr) (s.setStack slots s.sp)) := by
  by_cases h : s.sp.val = 16
  · rw [exec_call_full addr h, exec_call_full (s := s.setStack slots s.sp) addr h]
    exact State.agreeOnLive.next ⟨rfl, hlive⟩
  · have hlt : s.sp.val < 16 := by omega
    rw [exec_call_push addr ⟨s.sp.val, hlt⟩ rfl, exec_call_push (s := s.setStack slots s.sp) addr ⟨s.sp.val, hlt⟩ rfl]
    refine State.agreeOnLive.next ⟨rfl, fun k hk => ?_⟩
    have hk : k.val < s.sp.val + 1 := hk
    change (slots.set s.sp.val s.pc hlt)[k.val] = (s.stack.set s.sp.val s.pc hlt)[k.val]
    by_cases hkey : s.sp.val = k.val
    · simp [hkey]
    · rw [Vector.getElem_set_ne hlt k.isLt hkey, Vector.getElem_set_ne hlt k.isLt hkey]
      exact hlive k (by omega)

theorem exec_agree (i : Instr) :
    AnswersAgree (exec i s) (exec i (s.setStack slots s.sp)) := by
  by_cases hcall : ∃ addr, i = .call addr
  · obtain ⟨addr, rfl⟩ := hcall
    exact exec_call_agree hlive addr
  · intro t ht
    have hnot : ∀ addr, i ≠ .call addr := fun addr h => hcall ⟨addr, h⟩
    have hcommutes : exec i (s.setStack slots s.sp) = mapNext (fun u => u.setStack slots u.sp) (exec i s) := by
      by_cases hret : i = .ret
      · subst hret
        exact exec_ret_setStack s slots fun k hk => hlive k (by omega)
      · exact exec_mapPorts (g := fun _ => slots) (k := id) (r := id) (fun h => absurd h (not_or.mpr ⟨hret, hcall⟩))
          (fun _ => rfl) (fun _ => rfl) s
    refine ⟨_, hcommutes.trans (congrArg _ ht), State.agreeOnLive_setStack fun k hk => ?_⟩
    have hslot : t.slot k = s.slot k := exec_frame ht (.slot k) fun hw => hcall (mayWrite_slot.mp hw).1
    exact (hlive k (hk.trans_le (exec_sp_le ht hnot))).trans hslot.symm

/-- Neither the fetch nor the decoder reads a slot. -/
theorem runInstruction_agree :
    AnswersAgree s.runInstruction (s.setStack slots s.sp).runInstruction := by
  by_cases hfetch : 4095 < s.pc.toNat + 1
  · rw [s.runInstruction_fetchFault hfetch, (s.setStack slots s.sp).runInstruction_fetchFault hfetch]
    exact State.agreeOnLive.next ⟨rfl, hlive⟩
  · have hpc : s.pc.toNat + 1 ≤ 4095 := by omega
    cases hd : decodeWord s.fetchWord with
    | error e =>
      rw [s.runInstruction_unknown hpc hd, (s.setStack slots s.sp).runInstruction_unknown hpc hd]
      exact State.agreeOnLive.next ⟨rfl, hlive⟩
    | ok i =>
      rw [s.runInstruction_exec hpc hd, (s.setStack slots s.sp).runInstruction_exec hpc hd]
      exact exec_agree (s := s.setPc (s.pc + 2)) hlive i

theorem stepEvent_agree :
    AnswersAgree s.stepEvent (s.setStack slots s.sp).stepEvent := by
  refine AnswersAgree.whenStarted rfl ((runInstruction_agree hlive).mapNext fun t t' h => ?_)
  obtain ⟨slots', rfl, hlive'⟩ := State.agreeOnLive_iff.mp h
  exact ⟨rfl, hlive'⟩

theorem handle_agree (e : HostEvent) :
    AnswersAgree (s.handle e) ((s.setStack slots s.sp).handle e) := by
  cases e with
  | reset image => exact State.agreeOnLive.next ⟨rfl, fun _ _ => rfl⟩
  | step keys rnd => exact stepEvent_agree (s := s.setInputs keys rnd) hlive
  | tick => exact AnswersAgree.whenStarted rfl (State.agreeOnLive.next ⟨rfl, hlive⟩)
  | frameAck => exact AnswersAgree.whenStarted rfl (State.agreeOnLive.next ⟨rfl, hlive⟩)

end

theorem step_agree {s' : State} (h : s.agreeOnLive s') : AnswersAgree (step s) (step s') := by
  obtain ⟨slots, rfl, hlive⟩ := State.agreeOnLive_iff.mp h
  cases hagenda : s.agenda with
  | nil =>
    rw [step_of_nil s hagenda, step_of_nil (s.setStack slots s.sp) hagenda]
    exact stepEvent_agree hlive
  | cons e rest =>
    rw [step_of_cons s hagenda, step_of_cons (s.setStack slots s.sp) hagenda]
    exact handle_agree (s := s.setAgenda rest) hlive e

/-- Settles O54: the writers by the frame of `exec`, the readers by commuting with a change of the slots, and from both,
event by event, that states alike on the live slots go on alike. -/
theorem staleSlotsAreNeverObserved : Obligations.StaleSlotsAreNeverObserved :=
  ⟨fun _ _ _ => exec_stack, fun _ _ _ h _ => exec_call_slot h, fun _ s slots hi => exec_setStack hi s slots,
    exec_ret_setStack, fun _ _ t h => step_agree h t⟩

end Sys2Proof.Machine
end

section
/-! PROOFS of coincident requests (spec/40_engine_step.md R108): the order in which they reach the agenda, and the
machine that serves that agenda in three stages, acknowledge, step and tick, each of which may be absent. -/

namespace Sys2Proof.Machine

variable {s t : State}

/-! ### The order -/

/-- The acknowledge, where it is requested. -/
def ackEvents (requested : Bool) : List HostEvent := if requested then [.frameAck] else []

/-- The step with its inputs, where it is requested. -/
def stepEvents : Option (Word × Byte) → List HostEvent
  | some (keys, rnd) => [.step keys rnd]
  | none => []

/-- The tick, where it is requested. -/
def tickEvents (requested : Bool) : List HostEvent := if requested then [.tick] else []

theorem mem_ackEvents {b : Bool} {e : HostEvent} : e ∈ ackEvents b ↔ b = true ∧ e = .frameAck := by
  cases b <;> simp [ackEvents]

theorem mem_stepEvents {o : Option (Word × Byte)} {e : HostEvent} :
    e ∈ stepEvents o ↔ ∃ keys rnd, o = some (keys, rnd) ∧ e = .step keys rnd := by
  rcases o with _ | ⟨keys, rnd⟩ <;> simp [stepEvents]

theorem mem_tickEvents {b : Bool} {e : HostEvent} : e ∈ tickEvents b ↔ b = true ∧ e = .tick := by
  cases b <;> simp [tickEvents]

section

variable {r : Requests}

theorem Requests.serialise_reset {image : List Byte} (h : r.reset = some image) : r.serialise = [.reset image] := by
  simp [Requests.serialise, h]

theorem Requests.serialise_no_reset (h : r.reset = none) :
    r.serialise = ackEvents r.frameAck ++ (stepEvents r.step ++ tickEvents r.tick) := by
  rw [← List.append_assoc]
  simp only [Requests.serialise, h]
  rfl

theorem Requests.mem_serialise (h : r.reset = none) {e : HostEvent} :
    e ∈ r.serialise ↔ (r.frameAck = true ∧ e = .frameAck) ∨
      (∃ keys rnd, r.step = some (keys, rnd) ∧ e = .step keys rnd) ∨ (r.tick = true ∧ e = .tick) := by
  rw [r.serialise_no_reset h, List.mem_append, List.mem_append, mem_ackEvents, mem_stepEvents, mem_tickEvents]

theorem Requests.ack_before_step (h : r.reset = none) (hack : r.frameAck = true) {keys : Word} {rnd : Byte}
    (hstep : r.step = some (keys, rnd)) : [HostEvent.frameAck, .step keys rnd].Sublist r.serialise := by
  rw [r.serialise_no_reset h, hack, hstep]
  exact List.sublist_append_left [HostEvent.frameAck, .step keys rnd] _

theorem Requests.step_before_tick (h : r.reset = none) {keys : Word} {rnd : Byte}
    (hstep : r.step = some (keys, rnd)) (htick : r.tick = true) :
    [HostEvent.step keys rnd, .tick].Sublist r.serialise := by
  rw [r.serialise_no_reset h, htick, hstep]
  exact List.sublist_append_right _ [HostEvent.step keys rnd, .tick]

theorem Requests.ack_before_tick (h : r.reset = none) (hack : r.frameAck = true) (htick : r.tick = true) :
    [HostEvent.frameAck, .tick].Sublist r.serialise := by
  rw [r.serialise_no_reset h, hack, htick]
  exact (List.sublist_append_right _ [HostEvent.tick]).cons_cons HostEvent.frameAck

theorem Requests.nodup_serialise (h : r.reset = none) : r.serialise.Nodup := by
  rw [r.serialise_no_reset h]
  have hack : (ackEvents r.frameAck).Nodup := by cases r.frameAck <;> simp [ackEvents]
  have hstep : (stepEvents r.step).Nodup := by cases r.step <;> simp [stepEvents]
  have htick : (tickEvents r.tick).Nodup := by cases r.tick <;> simp [tickEvents]
  refine hack.append (hstep.append htick fun e he he' => ?_) fun e he he' => ?_
  · obtain ⟨_, _, -, rfl⟩ := mem_stepEvents.mp he
    cases (mem_tickEvents.mp he').2
  · obtain ⟨-, rfl⟩ := mem_ackEvents.mp he
    simp [mem_stepEvents, mem_tickEvents] at he'

end

/-! ### The service, stage by stage -/

/-- The machine takes the first event off the agenda and goes on. -/
theorem steps_cons {e : HostEvent} {rest : List HostEvent} (hagenda : s.agenda = e :: rest)
    (h : (s.setAgenda rest).handle e = .next t) (n : Nat) : steps (n + 1) s = steps n t := by
  rw [steps, step_of_cons s hagenda, h]

/-- The acknowledge, where it is requested, clears the draw flag and leaves the rest of the core as it was. -/
theorem serve_ack (hs : s.started = true) {b : Bool} {rest : List HostEvent}
    (hagenda : s.agenda = ackEvents b ++ rest) :
    ∃ t, (∀ n, steps ((ackEvents b).length + n) s = steps n t) ∧ t.agenda = rest ∧ (b = true → t.drawFlag = false) ∧
      unchangedBut (fun l => l = .drawFlag ∨ l = .agenda) s t := by
  cases b with
  | false => exact ⟨s, fun n => congrArg (steps · s) n.zero_add, hagenda, nofun, unchangedBut.refl⟩
  | true =>
    have hack := State.handle_frameAck (s := s.setAgenda rest) hs
    refine ⟨(s.setAgenda rest).setDrawFlag false, fun n => ?_, rfl, fun _ => rfl, ?_⟩
    · rw [Nat.add_comm]
      exact steps_cons hagenda hack n
    · exact (unchangedBut.refl.setAgenda (.inr rfl)).setDrawFlag (.inl rfl)

/-- What a tick, where it is requested, makes of a state: both timers decremented, flag and outcome as they were. -/
def Ticked (requested : Bool) (s u : State) : Prop :=
  u.dt.toNat = s.dt.toNat - (if requested then 1 else 0) ∧ u.st.toNat = s.st.toNat - (if requested then 1 else 0) ∧
    u.drawFlag = s.drawFlag ∧ u.outcome = s.outcome

/-- The tick, where it is requested, is the last event. -/
theorem serve_tick (hs : s.started = true) {b : Bool} (hagenda : b = true → s.agenda = [.tick]) :
    ∃ u, steps (tickEvents b).length s = .next u ∧ Ticked b s u := by
  cases b with
  | false => exact ⟨s, rfl, rfl, rfl, rfl, rfl⟩
  | true =>
    have htick := State.handle_tick (s := s.setAgenda []) hs
    exact ⟨_, steps_cons (hagenda rfl) htick 0, toNat_decrement s.dt, toNat_decrement s.st, rfl, rfl⟩

/-- The step, where it is requested, is the core's `step` event under its inputs, with the rest on the agenda. -/
theorem serve_step (hs : s.started = true) {o : Option (Word × Byte)} {rest : List HostEvent}
    (hagenda : s.agenda = stepEvents o ++ rest) :
    ∃ t, (∀ n, steps ((stepEvents o).length + n) s = steps n t) ∧ t.started = true ∧ (rest ≠ [] → t.agenda = rest) ∧
      (o = none → t = s) ∧
      ∀ keys rnd, o = some (keys, rnd) → ((s.setAgenda rest).setInputs keys rnd).stepEvent = .next t := by
  rcases o with _ | ⟨keys, rnd⟩
  · exact ⟨s, fun n => congrArg (steps · s) n.zero_add, hs, fun _ => hagenda, fun _ => rfl, nofun⟩
  · obtain ⟨t, ht, hstarted, hrest⟩ := State.handle_returns (s := s.setAgenda rest) hs (.step keys rnd)
    refine ⟨t, fun n => ?_, hstarted, fun hne => ?_, nofun, ?_⟩
    · rw [Nat.add_comm]
      exact steps_cons hagenda ht n
    · exact hrest.resolve_right fun ⟨hnil, _⟩ => hne hnil
    · rintro _ _ ⟨⟩
      exact ht

/-- The three stages of coincident requests: the acknowledge leads to `s₁`, the step to `s₂`, the tick to `u`. -/
theorem serve_requests {r : Requests} (h : r.reset = none) (hs : s.started = true) (hagenda : s.agenda = r.serialise) :
    ∃ s₁ s₂ u, steps r.serialise.length s = .next u ∧
      unchangedBut (fun l => l = .drawFlag ∨ l = .agenda) s s₁ ∧ (r.frameAck = true → s₁.drawFlag = false) ∧
      (r.step = none → s₂ = s₁) ∧
      (∀ keys rnd, r.step = some (keys, rnd) →
        ((s₁.setAgenda (tickEvents r.tick)).setInputs keys rnd).stepEvent = .next s₂) ∧
      Ticked r.tick s₂ u := by
  have horder := Requests.serialise_no_reset h
  obtain ⟨s₁, hsteps₁, hagenda₁, hack, hframe⟩ := serve_ack hs (hagenda.trans horder)
  have hstarted₁ : s₁.started = true := (hframe .started (by simp)).trans hs
  obtain ⟨s₂, hsteps₂, hstarted₂, hagenda₂, hidle, hstep⟩ := serve_step hstarted₁ hagenda₁
  have htick : r.tick = true → s₂.agenda = [.tick] := fun htick => by
    rw [htick] at hagenda₂
    exact hagenda₂ (List.cons_ne_nil _ _)
  obtain ⟨u, hu, hticked⟩ := serve_tick hstarted₂ htick
  refine ⟨s₁, s₂, u, ?_, hframe, hack, hidle, hstep, hticked⟩
  rw [horder, List.length_append, List.length_append, hsteps₁, hsteps₂, hu]

/-! ### What the step leaves for the tick -/

section

variable (hs : s.started = true) (hpc : s.pc.toNat + 1 ≤ 4095) {i : Instr} {x : Reg}

include hs hpc

/-- A draw that completes leaves the flag set. -/
theorem stepEvent_draws (hd : decodeWord s.fetchWord = .ok i) (hi : Draws i) (h : s.stepEvent = .next t)
    (hok : t.noFault) : t.drawFlag = true := by
  obtain ⟨t', ht', -⟩ := exec_framed i (s.setPc (s.pc + 2))
  rw [State.stepEvent_exec hs hpc hd, ht'] at h
  cases h
  rcases exec_draws hi ht' with hflag | ⟨f, rfl⟩
  · exact hflag
  · exact absurd rfl (hok f)

theorem stepEvent_loads_dt (hd : decodeWord s.fetchWord = .ok (.ldDTVx x)) (h : s.stepEvent = .next t) :
    t.dt = s.getV x := by
  cases (State.stepEvent_exec hs hpc hd).symm.trans h
  rfl

theorem stepEvent_loads_st (hd : decodeWord s.fetchWord = .ok (.ldSTVx x)) (h : s.stepEvent = .next t) :
    t.st = s.getV x := by
  cases (State.stepEvent_exec hs hpc hd).symm.trans h
  rfl

end

/-- The fetch reads `pc` and memory only. -/
theorem State.fetchWord_congr (hpc : t.pc = s.pc) (hbyte : ∀ a, t.readByte a = s.readByte a) :
    t.fetchWord = s.fetchWord := by
  simp only [State.fetchWord, hpc, hbyte]

/-- Settles O17: the order from the three parts of the serialised list; the service by its stages, where neither the
acknowledge nor the tick touches what the step reads. -/
theorem coincidentRequestsAreServedInOrder : Obligations.CoincidentRequestsAreServedInOrder := by
  refine fun r => ⟨fun image => Requests.serialise_reset, fun h => ?order, fun s hagenda => ⟨fun image h => ?reset,
    fun hs h => ?service⟩⟩
  case order =>
    refine ⟨?_, ?_, fun k n => ?_, fun image => ?_, fun k n hstep => ⟨fun hack => Requests.ack_before_step h hack hstep,
      Requests.step_before_tick h hstep⟩, Requests.ack_before_tick h, Requests.nodup_serialise h⟩
    all_goals simp [Requests.mem_serialise h]
  case reset => exact step_of_cons s (hagenda.trans (Requests.serialise_reset h))
  case service =>
    obtain ⟨s₁, s₂, u, hu, hframe, hack, hidle, hstep, hdt, hst, hflag, houtcome⟩ := serve_requests h hs hagenda
    refine ⟨u, hu, fun hnone hacked => ?acked, fun hnone hticked => ?ticked, fun k n i hsome hpc hd => ?stepped⟩
    case acked =>
      obtain rfl := hidle hnone
      exact hflag.trans (hack hacked)
    case ticked =>
      obtain rfl := hidle hnone
      have hdelay : s₂.dt = s.dt := hframe .delay (by simp)
      have hsound : s₂.st = s.st := hframe .sound (by simp)
      rw [hdt, hst, hticked, hdelay, hsound]
      exact ⟨rfl, rfl⟩
    case stepped =>
      have hpc₁ : s₁.pc = s.pc := hframe .pc (by simp)
      have hword₁ := State.fetchWord_congr hpc₁ fun a => hframe (.byte a) (by simp)
      have hreg₁ : ∀ x, s₁.getV x = s.getV x := fun x => hframe (.reg x) (by simp)
      have hstarted₁ : s₁.started = true := (hframe .started (by simp)).trans hs
      rw [← hpc₁] at hpc
      rw [← hword₁] at hd
      have hrun := hstep k n hsome
      refine ⟨fun hi hok => ?draw, fun x hi => ?delay, fun x hi => ?sound⟩
      case draw =>
        have hok₂ : s₂.noFault := fun f => houtcome ▸ hok f
        exact hflag.trans
          (stepEvent_draws (s := (s₁.setAgenda (tickEvents r.tick)).setInputs k n) hstarted₁ hpc hd hi hrun hok₂)
      case delay =>
        subst hi
        have hload := stepEvent_loads_dt (s := (s₁.setAgenda (tickEvents r.tick)).setInputs k n) hstarted₁ hpc hd hrun
        rw [hdt, hload, State.setInputs_getV, State.setAgenda_getV, hreg₁]
      case sound =>
        subst hi
        have hload := stepEvent_loads_st (s := (s₁.setAgenda (tickEvents r.tick)).setInputs k n) hstarted₁ hpc hd hrun
        rw [hst, hload, State.setInputs_getV, State.setAgenda_getV, hreg₁]

end Sys2Proof.Machine
end
